-- ==== Sys2Proof/Word.lean ====
section
/-! DEFINITION. The word types of HFPE, by the widths of 00_scope.md R10. All quantities are unsigned (R11). -/

namespace Sys2Proof

/-- A command word of format H, 32 bits (30_encoding.md R91). -/
abbrev Word := BitVec 32

/-- `W_PIN`, `W_REP`, `W_PLEN`, `W_IDX`: the 16-bit quantities. -/
abbrev Half := BitVec 16

/-- `W_UNITS`: one member of a unit pair. -/
abbrev Units := BitVec 8

/-- `W_DUR`: a duration counter, or the operand of a Delay event, in microseconds. -/
abbrev Dur := BitVec 24

/-- `W_CHAR`: one character of a symbol string or of a command name (00_scope.md R12). -/
abbrev Char8 := BitVec 8

/-- The character written `'1'` (00_scope.md R12; PRESUMED by the spec itself, log 12). -/
def charOne : Char8 := 0x31#8

/-- The character written `'0'` (00_scope.md R12; PRESUMED by the spec itself, log 12). -/
def charZero : Char8 := 0x30#8

end Sys2Proof
end

