-- ==== Sys2Proof/Syntax.lean ====
section
/-! DEFINITION. The instructions of HFPE: one constructor per row of spec/opcode_table.json, and the coded form they are
read from. Format H is the host's command word (30_encoding.md R91), format S one character of a string (R100). -/

namespace Sys2Proof

/-- The rows of the opcode table. -/
inductive Instr where
  /-- CFGOUT pin (43_driver_facade.md R188). -/
  | cfgout (pin : Half)
  /-- SETREP n (43_driver_facade.md R191). -/
  | setrep (n : Half)
  /-- SELADDR index (43_driver_facade.md R194). -/
  | seladdr (index : Half)
  /-- SEND c, `c` the first character of the command name (43_driver_facade.md R200). -/
  | send (c : Char8)
  /-- SETPLEN us (40_pulse_encoder.md R130). -/
  | setplen (us : Half)
  /-- SETPROTO (40_pulse_encoder.md R128). -/
  | setproto
  /-- ONE, the symbol `'1'` (41_bitstring_transmitter.md R143). -/
  | one
  /-- ZERO, any other symbol; it keeps the character it was read from (41_bitstring_transmitter.md R144). -/
  | zero (ch : Char8)
deriving DecidableEq, Repr

/-- What an instruction is read from: a command word of the port, or a character of a string register. -/
inductive Code where
  | word (w : Word)
  | char (ch : Char8)
deriving DecidableEq, Repr

end Sys2Proof
end

