-- ==== Sys2Proof/WellFormed.lean ====
section
/-! DEFINITION. Which instructions are well formed. Every operand field is as wide as its encoding, so the one check is that
ZERO does not carry the character of ONE (30_encoding.md R100: ZERO is tested after ONE). -/

namespace Sys2Proof

/-- The check of an instruction's fields. -/
def Instr.wellFormed : Instr → Bool
  | .cfgout _ => true
  | .setrep _ => true
  | .seladdr _ => true
  | .send _ => true
  | .setplen _ => true
  | .setproto => true
  | .one => true
  | .zero ch => ch != charOne

end Sys2Proof
end

