-- ==== Sys2Proof/Decode.lean ====
section
/-! DEFINITION. The decoder of formats H and S, total, rejecting by name, and the encoder (30_encoding.md). -/

namespace Sys2Proof

/-- Why a command word is illegal, in the order of 30_encoding.md R95. All four raise the one fault ILLEGAL_OP. -/
inductive Illegal where
  /-- `OP` is 0x0 or 0x7 to 0xF. -/
  | unusedOpcode
  /-- The field `Z = w[27:16]` is not zero. -/
  | reservedBits
  /-- SEND with `ARG[15:8]` not zero. -/
  | sendArgHigh
  /-- SETPROTO with `ARG` not zero. -/
  | setprotoArg
deriving DecidableEq, Repr

/-- What the decoder answers. -/
inductive Decoded where
  | ok (i : Instr)
  | illegal (r : Illegal)
deriving DecidableEq, Repr

/-- `OP = w[31:28]` (R91). -/
def fieldOp (w : Word) : BitVec 4 := w.extractLsb' 28 4

/-- `Z = w[27:16]` (R91). -/
def fieldZ (w : Word) : BitVec 12 := w.extractLsb' 16 12

/-- `ARG = w[15:0]` (R91). -/
def fieldArg (w : Word) : Half := w.extractLsb' 0 16

/-- `ARG[7:0]`, the operand of SEND (R92). -/
def fieldChar (w : Word) : Char8 := w.extractLsb' 0 8

/-- `ARG[15:8]`, which must be 0 in SEND (R92). -/
def fieldArgHigh (w : Word) : BitVec 8 := w.extractLsb' 8 8

/-- The decoder of format H (R92, R93, R95). -/
def decodeWord (w : Word) : Decoded :=
  if fieldOp w = 0x0#4 ∨ 0x7#4 ≤ fieldOp w then .illegal .unusedOpcode
  else if fieldZ w ≠ 0#12 then .illegal .reservedBits
  else if fieldOp w = 0x1#4 then .ok (.cfgout (fieldArg w))
  else if fieldOp w = 0x2#4 then .ok (.setrep (fieldArg w))
  else if fieldOp w = 0x3#4 then .ok (.seladdr (fieldArg w))
  else if fieldOp w = 0x4#4 then
    if fieldArgHigh w = 0#8 then .ok (.send (fieldChar w)) else .illegal .sendArgHigh
  else if fieldOp w = 0x5#4 then .ok (.setplen (fieldArg w))
  else if fieldArg w = 0#16 then .ok .setproto
  else .illegal .setprotoArg

/-- The decoder of format S: ONE is tested first, every other character is ZERO (R100, R101). -/
def decodeSymbol (ch : Char8) : Instr :=
  if ch = charOne then .one else .zero ch

/-- The decoder of both formats. -/
def decode : Code → Decoded
  | .word w => decodeWord w
  | .char ch => .ok (decodeSymbol ch)

/-- A word of format H from its three fields (R91). -/
def formatH (op : BitVec 4) (arg : Half) : Word := (op ++ 0#12) ++ arg

/-- The encoder, from the opcode map of R92 and the symbols of R100. -/
def encode : Instr → Code
  | .cfgout pin => .word (formatH 0x1#4 pin)
  | .setrep n => .word (formatH 0x2#4 n)
  | .seladdr index => .word (formatH 0x3#4 index)
  | .send c => .word (formatH 0x4#4 (0#8 ++ c))
  | .setplen us => .word (formatH 0x5#4 us)
  | .setproto => .word (formatH 0x6#4 0#16)
  | .one => .char charOne
  | .zero ch => .char ch

/-- An instruction as an answer of the decoder, for the host. -/
def Decoded.toOption : Decoded → Option Instr
  | .ok i => some i
  | .illegal _ => none

/-- The decoder on a row of spec/opcode_table.json: 32 bits is a command word, 8 bits a character. -/
def decodeTableWord (nbits w : Nat) : Option Instr :=
  if nbits = 32 then (decode (.word (BitVec.ofNat 32 w))).toOption
  else if nbits = 8 then (decode (.char (BitVec.ofNat 8 w))).toOption
  else none

end Sys2Proof
end

