-- ==== Sys2Proof/Config.lean ====
section
/-! DEFINITION. The four parameters the spec leaves OPEN (00_scope.md R10, 92_eei_decisions.md): constants without a body,
so that no proof can lean on a value. The catalog strings are held as bits, one per symbol, true for the character `'1'`:
20_memory.md R64 allows it, and the constraint that every symbol is `'0'` or `'1'` then holds by construction (log 5). -/

namespace Sys2Proof

/-- `REPEAT_RESET`: REPEAT after reset (10_state.md R23, log 4). -/
opaque Config.repeatReset : Half

/-- `ADDR_ROM[0..2]`: the three addresses, 42 symbols each (20_memory.md R61, log 5). -/
opaque Config.addrRomBits : Fin 3 → Vector Bool 42

/-- `CMD_CODE[0..3]`: the four command codes, 26 symbols each (20_memory.md R62, log 5). -/
opaque Config.cmdCodeBits : Fin 4 → Vector Bool 26

/-- `PIN_VALID`: can the platform drive this pin (92_eei_decisions.md D22, log 6). No rule of HFPE reads it. -/
opaque Config.pinValid : Half → Bool

end Sys2Proof
end

