-- ==== Sys2Proof/Machine/Params.lean ====
section
/-! DEFINITION. The constants of 00_scope.md R10 that have a value, and the names of the command catalog. -/

namespace Sys2Proof.Machine

/-- A PulseTiming: a pair (highUnits, lowUnits) (00_scope.md R13). -/
structure PulseTiming where
  high : Units
  low : Units
deriving DecidableEq, Repr

/-- `N_SYNC`: sync pulses at the start of every repeat. -/
def nSync : BitVec 4 := 12#4

/-- `T_GAP_SECTION`, in microseconds. -/
def gapSection : Dur := 5000#24

/-- `T_GAP_REPEAT`, in microseconds. -/
def gapRepeat : Dur := 26000#24

/-- `DEF_PLEN`, in microseconds. -/
def defPlen : Half := 400#16

/-- `DEF_SYNC`. -/
def defSync : PulseTiming := ⟨1#8, 2#8⟩

/-- `DEF_ZERO`. -/
def defZero : PulseTiming := ⟨2#8, 1#8⟩

/-- `DEF_ONE`. -/
def defOne : PulseTiming := ⟨1#8, 2#8⟩

/-- `CMD_NAME[0..3]` in catalog order: off, low, med, high (20_memory.md R62), in the codes of log 12. -/
def cmdNames : Vector (List Char8) 4 :=
  #v[[0x6F#8, 0x66#8, 0x66#8], [0x6C#8, 0x6F#8, 0x77#8], [0x6D#8, 0x65#8, 0x64#8], [0x68#8, 0x69#8, 0x67#8, 0x68#8]]

end Sys2Proof.Machine
end

