-- ==== Sys2Proof/Machine/State.lean ====
section
/-! DEFINITION. The state of one HFPE instance, as plain data, and its value after reset (10_state.md). -/

namespace Sys2Proof.Machine

/-- The level of a pin in a PinLevel event (00_scope.md R8). -/
inductive Level where
  | low
  | high
deriving DecidableEq, Repr

/-- The event alphabet: one constructor per capability call (00_scope.md R8). -/
inductive Event where
  /-- `configurePinAsOutput(pin)`. -/
  | pinMode (pin : Half)
  /-- `setPinLevel(pin, level)`. -/
  | pinLevel (pin : Half) (level : Level)
  /-- `sleepMicroseconds(d)`. -/
  | delay (d : Dur)
deriving DecidableEq, Repr

/-- SEQ.PHASE: the step of the frame in progress (10_state.md R40). -/
inductive Phase where
  | idle
  | sync
  | gaps
  | addr
  | cmd
  | gapr
deriving DecidableEq, Repr

/-- SEQ.SUB: the position inside the current pulse (10_state.md R40). -/
inductive Sub where
  | hiSet
  | hiHold
  | loSet
  | loHold
deriving DecidableEq, Repr

/-- The five fault causes of HFPE (60_exceptions.md R210). Taking one is a next state, `raise`, not a stop. -/
inductive Cause where
  | unknownCommand
  | addrIndexRange
  | pinNotConfigured
  | addrNotSelected
  | illegalOp
deriving DecidableEq, Repr

/-- All state of one instance (10_state.md R45), and the host's words still to issue. -/
@[ext]
structure State where
  /-- PIN (R21). -/
  pin : Half
  /-- PIN_SET (R22). -/
  pinSet : Bool
  /-- REPEAT (R23). -/
  repeatCount : Half
  /-- PLEN (R24). -/
  plen : Half
  /-- SYNC_H (R25). -/
  syncH : Units
  /-- SYNC_L (R25). -/
  syncL : Units
  /-- ZERO_H (R26). -/
  zeroH : Units
  /-- ZERO_L (R26). -/
  zeroL : Units
  /-- ONE_H (R27). -/
  oneH : Units
  /-- ONE_L (R27). -/
  oneL : Units
  /-- ADDR, 42 characters, index 0 first (R30). -/
  addr : Vector Char8 42
  /-- ADDR_SET (R31). -/
  addrSet : Bool
  /-- CODE, 26 characters, index 0 first (R32). -/
  code : Vector Char8 26
  /-- ERR, bit `c - 1` for cause `c` (R33). -/
  err : BitVec 5
  /-- LEVEL; `none` is `unknown` (R36). -/
  level : Option Level
  /-- The ghost trace, oldest event first (R38). -/
  trace : List Event
  /-- SEQ.PHASE (R40). -/
  phase : Phase
  /-- SEQ.REP: repeats still to finish, the current one counted (R40). -/
  rep : Half
  /-- SEQ.SCNT: sync pulses still to finish (R40). -/
  scnt : BitVec 4
  /-- SEQ.IDX: index of the symbol being sent (R40). -/
  idx : BitVec 6
  /-- SEQ.SUB (R40). -/
  sub : Sub
  /-- HCNT (R42). -/
  hcnt : Dur
  /-- LCNT (R42). -/
  lcnt : Dur
  /-- GCNT (R42). -/
  gcnt : Dur
  /-- The model's own field: the command words the host has still to issue (70_reset_and_hazards.md R261, log 1). -/
  hostOps : List Word
deriving DecidableEq, Repr

/-- The machine's stops. -/
inductive Fault where
  /-- Raised by the sequencer's fetch of a symbol when IDX is not an index of the string (20_memory.md R66: it is always in
  range in a run). Safe: no state a run reaches meets it (log 9). -/
  | symbolIndex
deriving DecidableEq, Repr

/-- The machine's refusals. -/
inductive Refusal where
  /-- Raised by exec for an instruction without a meaning; no arm raises it now. Safe. -/
  | notModelled (mnemonic : String)
deriving DecidableEq, Repr

/-- The machine right after reset (10_state.md R45, 70_reset_and_hazards.md R240). REPEAT is the open parameter (log 4);
PIN, ADDR, CODE, REP, SCNT, IDX and SUB have no value in the spec and take the values of log 3 (DESIGN CHOICE). -/
def State.reset : State where
  pin := 0#16
  pinSet := false
  repeatCount := Config.repeatReset
  plen := defPlen
  syncH := defSync.high
  syncL := defSync.low
  zeroH := defZero.high
  zeroL := defZero.low
  oneH := defOne.high
  oneL := defOne.low
  addr := Vector.replicate 42 charZero
  addrSet := false
  code := Vector.replicate 26 charZero
  err := 0#5
  level := none
  trace := []
  phase := .idle
  rep := 0#16
  scnt := 0#4
  idx := 0#6
  sub := .hiSet
  hcnt := 0#24
  lcnt := 0#24
  gcnt := 0#24
  hostOps := []

end Sys2Proof.Machine
end

