-- ==== Sys2Proof/Machine/Operands.lean ====
section
/-! DEFINITION. Operand forms: the name operand of SEND (30_encoding.md R94, R106), the unit pairs as operands of a pulse, the
product of 40_pulse_encoder.md R125, and the timing of a symbol (R100). -/

namespace Sys2Proof.Machine

/-- The first character of a name, 0x00 for the empty name (R94). -/
def firstChar (name : List Char8) : Char8 := name.headD 0x00#8

/-- `SEND "name"`: the pseudo-instruction of R106. -/
def sendOfName (name : List Char8) : Instr := .send (firstChar name)

/-- `PLEN * units`, in the 24 bits of a duration (40_pulse_encoder.md R125). -/
def pulseDur (plen : Half) (units : Units) : Dur := plen.setWidth 24 * units.setWidth 24

/-- The sync timing (10_state.md R25). -/
def State.syncTiming (s : State) : PulseTiming := ⟨s.syncH, s.syncL⟩

/-- The zero timing (10_state.md R26). -/
def State.zeroTiming (s : State) : PulseTiming := ⟨s.zeroH, s.zeroL⟩

/-- The one timing (10_state.md R27). -/
def State.oneTiming (s : State) : PulseTiming := ⟨s.oneH, s.oneL⟩

/-- The timing of a frame symbol (41_bitstring_transmitter.md R143, R144); a host operation has none. -/
def State.instrTiming (s : State) : Instr → Option PulseTiming
  | .one => some s.oneTiming
  | .zero _ => some s.zeroTiming
  | .cfgout _ => none
  | .setrep _ => none
  | .seladdr _ => none
  | .send _ => none
  | .setplen _ => none
  | .setproto => none

/-- The timing of the symbol at an index of a string: the character is fetched, decoded (R100) and its timing read. -/
def State.symbolTiming (s : State) (str : List Char8) (i : BitVec 6) : Option PulseTiming :=
  (str[i.toNat]?).bind fun ch => s.instrTiming (decodeSymbol ch)

end Sys2Proof.Machine
end

