-- ==== Sys2Proof/Machine/Catalog.lean ====
section
/-! DEFINITION. The Command Table: the two read-only catalogs and their lookups LKCMD and LKADDR (42_command_table.md,
20_memory.md R60 to R68). They read no register. -/

namespace Sys2Proof.Machine

/-- A catalog symbol as a character: only `'0'` and `'1'` occur (20_memory.md R64). -/
def symbolChar (b : Bool) : Char8 := if b then charOne else charZero

/-- `MemRead(ADDR_ROM, i)` (20_memory.md R61). -/
def addrRom (i : Fin 3) : Vector Char8 42 := (Config.addrRomBits i).map symbolChar

/-- `MemRead(CMD_NAME, k)` (20_memory.md R62). -/
def cmdName (k : Fin 4) : List Char8 := cmdNames[k]

/-- `MemRead(CMD_CODE, k)` (20_memory.md R62). -/
def cmdCode (k : Fin 4) : Vector Char8 26 := (Config.cmdCodeBits k).map symbolChar

/-- The positions of the command catalog in the order LKCMD visits them. -/
def cmdOrder : List (Fin 4) := [0, 1, 2, 3]

/-- LKCMD (42_command_table.md R170): the code of the first entry whose name begins with `c`. -/
def lkcmd (c : Char8) : Option (Vector Char8 26) :=
  (cmdOrder.find? fun k => firstChar (cmdName k) == c).map cmdCode

/-- LKADDR (42_command_table.md R175): the entry at the index, none from `N_ADDR` up. -/
def lkaddr (i : Half) : Option (Vector Char8 42) :=
  if h : i.toNat < 3 then some (addrRom ⟨i.toNat, h⟩) else none

end Sys2Proof.Machine
end

