-- ==== Sys2Proof/Machine/Flags.lean ====
section
/-! DEFINITION. The flags of HFPE: the ERR bits, BUSY and the two status outputs. There is no arithmetic flag (10_state.md R34). -/

namespace Sys2Proof.Machine

/-- The cause code, 1 to 5 (60_exceptions.md R210). -/
def Cause.code : Cause → Nat
  | .unknownCommand => 1
  | .addrIndexRange => 2
  | .pinNotConfigured => 3
  | .addrNotSelected => 4
  | .illegalOp => 5

/-- ERR with only the bit of one cause set: bit `c - 1` (10_state.md R33). -/
def Cause.mask (c : Cause) : BitVec 5 := 1#5 <<< (c.code - 1)

/-- BUSY (10_state.md R41). -/
def State.busy (s : State) : Bool := s.phase != .idle

/-- The `busy` output (10_state.md R48). -/
def busyOut (s : State) : Bool := s.busy

/-- The `err` output (10_state.md R48). -/
def errOut (s : State) : BitVec 5 := s.err

end Sys2Proof.Machine
end

