-- ==== Sys2Proof/Machine/Ops.lean ====
section
/-! DEFINITION. The named operations over registers that the meanings share. HFPE has no writable memory (20_memory.md R62).
Taking a fault is `raise`; there is no return from one, because there is no handler (60_exceptions.md R225). -/

namespace Sys2Proof.Machine

/-- `emit E` (00_scope.md R14): append to the trace. -/
def emit (e : Event) (s : State) : State := { s with trace := s.trace ++ [e] }

/-- `emit PinLevel(PIN, v); LEVEL <- v` (10_state.md R36). -/
def drive (v : Level) (s : State) : State := { emit (.pinLevel s.pin v) s with level := some v }

/-- `raise F` (60_exceptions.md R214): the cause's ERR bit is set and nothing else changes. -/
def raise (c : Cause) (s : State) : State := { s with err := s.err ||| c.mask }

/-- HI_SET: load HCNT and LCNT, drive HIGH (40_pulse_encoder.md R120, 41_bitstring_transmitter.md R153). -/
def pulseHiSet (t : PulseTiming) (s : State) : State :=
  drive .high { s with hcnt := pulseDur s.plen t.high, lcnt := pulseDur s.plen t.low }

/-- HI_HOLD: `emit Delay(HCNT); HCNT <- 0`. -/
def pulseHiHold (s : State) : State := { emit (.delay s.hcnt) s with hcnt := 0#24 }

/-- LO_SET: drive LOW. -/
def pulseLoSet (s : State) : State := drive .low s

/-- LO_HOLD: `emit Delay(LCNT); LCNT <- 0`. -/
def pulseLoHold (s : State) : State := { emit (.delay s.lcnt) s with lcnt := 0#24 }

/-- TXPULSE, the micro-operation of 40_pulse_encoder.md R120: the four parts of a pulse in order. -/
def txpulse (t : PulseTiming) (s : State) : State :=
  pulseLoHold (pulseLoSet (pulseHiHold (pulseHiSet t s)))

/-- The registers a protocol is written to (40_pulse_encoder.md R128). -/
def setProtocol (plen : Half) (sync zero one : PulseTiming) (s : State) : State :=
  { s with
    plen := plen
    syncH := sync.high, syncL := sync.low
    zeroH := zero.high, zeroL := zero.low
    oneH := one.high, oneL := one.low }

end Sys2Proof.Machine
end

