-- ==== Sys2Proof/Machine/Sequencer.lean ====
section
/-! DEFINITION. The sequencer: the frame-assembly state machine, one event per step (41_bitstring_transmitter.md section 3), and
the counter of a hold (R157). The strings `A` and `C` are arguments, as the spec has them for any length (R150, R163). -/

namespace Sys2Proof.Machine

/-- `begin_repeat()` (R151). -/
def beginRepeat (s : State) : State := { s with phase := .sync, scnt := nSync, sub := .hiSet }

/-- `start()` (R151, R141). -/
def seqStart (s : State) : State :=
  if s.pinSet then
    if s.repeatCount = 0#16 then s else beginRepeat { s with rep := s.repeatCount }
  else raise .pinNotConfigured s

/-- `enter_gapr()` (R154). -/
def enterGapr (s : State) : State := { s with phase := .gapr, gcnt := gapRepeat }

/-- `enter_cmd()` (R154). -/
def enterCmd (C : List Char8) (s : State) : State :=
  if C.length = 0 then enterGapr s else { s with phase := .cmd, idx := 0#6, sub := .hiSet }

/-- `enter_addr()` (R154). -/
def enterAddr (A C : List Char8) (s : State) : State :=
  if A.length = 0 then enterCmd C s else { s with phase := .addr, idx := 0#6, sub := .hiSet }

/-- `cur_timing()` (R152); none outside a pulse phase, or when IDX is no index of the string (log 9). -/
def curTiming (A C : List Char8) (s : State) : Option PulseTiming :=
  match s.phase with
  | .sync => some s.syncTiming
  | .addr => s.symbolTiming A s.idx
  | .cmd => s.symbolTiming C s.idx
  | .idle => none
  | .gaps => none
  | .gapr => none

/-- The end of a sync pulse (R154). -/
def advanceSync (s : State) : State :=
  if s.scnt - 1#4 = 0#4 then { s with scnt := s.scnt - 1#4, phase := .gaps, gcnt := gapSection }
  else { s with scnt := s.scnt - 1#4 }

/-- The end of an address pulse (R154). -/
def advanceAddr (A C : List Char8) (s : State) : State :=
  if (s.idx + 1#6).toNat = A.length then enterCmd C { s with idx := s.idx + 1#6 }
  else { s with idx := s.idx + 1#6 }

/-- The end of a command pulse (R154). -/
def advanceCmd (C : List Char8) (s : State) : State :=
  if (s.idx + 1#6).toNat = C.length then enterGapr { s with idx := s.idx + 1#6 }
  else { s with idx := s.idx + 1#6 }

/-- `advance()` (R154). -/
def advance (A C : List Char8) (s : State) : State :=
  match s.phase with
  | .sync => advanceSync s
  | .addr => advanceAddr A C s
  | .cmd => advanceCmd C s
  | .idle => s
  | .gaps => s
  | .gapr => s

/-- One of the four steps of a pulse (R153). -/
def pulseStep (A C : List Char8) (s : State) : Host.Outcome State Fault Refusal :=
  match s.sub with
  | .hiSet =>
    match curTiming A C s with
    | some t => .next { pulseHiSet t s with sub := .hiHold }
    | none => .fault .symbolIndex
  | .hiHold => .next { pulseHiHold s with sub := .loSet }
  | .loSet => .next { pulseLoSet s with sub := .loHold }
  | .loHold => .next (advance A C { pulseLoHold s with sub := .hiSet })

/-- The GAPS and GAPR delay: `emit Delay(GCNT); GCNT <- 0` (R155, R156). -/
def gapHold (s : State) : State := { emit (.delay s.gcnt) s with gcnt := 0#24 }

/-- The end of a repeat (R156). -/
def endRepeat (s : State) : State :=
  if s.rep - 1#16 = 0#16 then { s with rep := s.rep - 1#16, phase := .idle }
  else beginRepeat { s with rep := s.rep - 1#16 }

/-- `step()` of the sequencer (R150 to R156). In IDLE it has no step, and the state stays. -/
def seqStep (A C : List Char8) (s : State) : Host.Outcome State Fault Refusal :=
  match s.phase with
  | .idle => .next s
  | .sync => pulseStep A C s
  | .addr => pulseStep A C s
  | .cmd => pulseStep A C s
  | .gaps => .next (enterAddr A C (gapHold s))
  | .gapr => .next (endRepeat (gapHold s))

/-- `n` sequencer steps on the strings `A` and `C`, stopping at a fault or a refusal (R158, R159). -/
def seqRun (A C : List Char8) : Nat → State → Host.Outcome State Fault Refusal
  | 0, s => .next s
  | n + 1, s =>
    match seqStep A C s with
    | .next t => seqRun A C n t
    | .fault r => .fault r
    | .refused r => .refused r

/-- The counter of the hold in progress; none where the next step takes no tick (R157). -/
def holdCounter (s : State) : Option Dur :=
  match s.phase, s.sub with
  | .idle, _ => none
  | .gaps, _ => some s.gcnt
  | .gapr, _ => some s.gcnt
  | .sync, .hiHold => some s.hcnt
  | .addr, .hiHold => some s.hcnt
  | .cmd, .hiHold => some s.hcnt
  | .sync, .loHold => some s.lcnt
  | .addr, .loHold => some s.lcnt
  | .cmd, .loHold => some s.lcnt
  | .sync, .hiSet => none
  | .addr, .hiSet => none
  | .cmd, .hiSet => none
  | .sync, .loSet => none
  | .addr, .loSet => none
  | .cmd, .loSet => none

/-- The state with the counter of the hold in progress replaced. -/
def withHoldCounter (d : Dur) (s : State) : State :=
  match s.phase, s.sub with
  | .idle, _ => s
  | .gaps, _ => { s with gcnt := d }
  | .gapr, _ => { s with gcnt := d }
  | .sync, .hiHold => { s with hcnt := d }
  | .addr, .hiHold => { s with hcnt := d }
  | .cmd, .hiHold => { s with hcnt := d }
  | .sync, .loHold => { s with lcnt := d }
  | .addr, .loHold => { s with lcnt := d }
  | .cmd, .loHold => { s with lcnt := d }
  | .sync, .hiSet => s
  | .addr, .hiSet => s
  | .cmd, .hiSet => s
  | .sync, .loSet => s
  | .addr, .loSet => s
  | .cmd, .loSet => s

end Sys2Proof.Machine
end

