-- ==== Sys2Proof/Machine/Facade.lean ====
section
/-! DEFINITION. The Driver Facade family: CFGOUT, SETREP, SELADDR, SEND (43_driver_facade.md). -/

namespace Sys2Proof.Machine

/-- CFGOUT (R188). -/
def execCfgout (pin : Half) (s : State) : Host.Outcome State Fault Refusal :=
  .next { emit (.pinMode pin) { s with pin := pin, pinSet := true } with level := none }

/-- SETREP (R191): `REPEAT <- n`. -/
def execSetrep (n : Half) (s : State) : Host.Outcome State Fault Refusal :=
  .next { s with repeatCount := n }

/-- SELADDR (R194). -/
def execSeladdr (index : Half) (s : State) : Host.Outcome State Fault Refusal :=
  match lkaddr index with
  | none => .next (raise .addrIndexRange s)
  | some str => .next { s with addr := str, addrSet := true }

/-- SEND (R200, R201): the three checks in order, the latch, and the start of TXFRAME on ADDR and CODE; the frame's events are
the sequencer's, step by step, until it is IDLE again (R150, R151, R161; log 8). -/
def execSend (c : Char8) (s : State) : Host.Outcome State Fault Refusal :=
  match lkcmd c with
  | none => .next (raise .unknownCommand s)
  | some code =>
    if s.addrSet = false then .next (raise .addrNotSelected s)
    else if s.pinSet = false then .next (raise .pinNotConfigured s)
    else .next (seqStart { s with code := code })

end Sys2Proof.Machine
end

