-- ==== Sys2Proof/Machine/Frame.lean ====
section
/-! DEFINITION. The Bit-String Transmitter at the operation level (41_bitstring_transmitter.md sections 1 and 2): the frame
instructions ONE, ZERO, SYNC, GAPS, GAPR, the micro-operation TXFRAME on strings of any length, and TXFRAME's trace as a pure
function. -/

namespace Sys2Proof.Machine

/-- ONE (R143): TXPULSE of the one timing. -/
def execOne (s : State) : Host.Outcome State Fault Refusal :=
  .next (txpulse s.oneTiming s)

/-- ZERO (R144): TXPULSE of the zero timing, whatever the character. -/
def execZero (_ch : Char8) (s : State) : Host.Outcome State Fault Refusal :=
  .next (txpulse s.zeroTiming s)

/-- SYNC (R146): TXPULSE of the sync timing. -/
def syncOp (s : State) : State := txpulse s.syncTiming s

/-- GAPS (R147): `emit Delay(5000)`. -/
def gapsOp (s : State) : State := emit (.delay gapSection) s

/-- GAPR (R148): `emit Delay(26000)`. -/
def gaprOp (s : State) : State := emit (.delay gapRepeat) s

/-- Steps 3 and 4 of the frame, one symbol: `'1'` is sent as ONE, any other character as ZERO (R140). -/
def symbolOp (s : State) (ch : Char8) : State :=
  if ch = charOne then txpulse s.oneTiming s else txpulse s.zeroTiming s

/-- One repeat of the frame loop (R140, R149). -/
def repeatOp (A C : List Char8) (s : State) : State :=
  gaprOp (C.foldl symbolOp (A.foldl symbolOp (gapsOp (syncOp^[nSync.toNat] s))))

/-- TXFRAME (R140, R141, R142). -/
def txframe (A C : List Char8) (s : State) : State :=
  if s.pinSet then (repeatOp A C)^[s.repeatCount.toNat] s else raise .pinNotConfigured s

/-- The protocol `P = (plen, sync, zero, one)` (00_scope.md, R140). -/
structure Protocol where
  plen : Half
  sync : PulseTiming
  zero : PulseTiming
  one : PulseTiming
deriving DecidableEq, Repr

/-- The active protocol. -/
def State.protocol (s : State) : Protocol := ⟨s.plen, s.syncTiming, s.zeroTiming, s.oneTiming⟩

/-- `pulse(P, p, t)` of R140. -/
def pulseEvents (P : Protocol) (p : Half) (t : PulseTiming) : List Event :=
  [.pinLevel p .high, .delay (pulseDur P.plen t.high), .pinLevel p .low, .delay (pulseDur P.plen t.low)]

/-- `timing(P, ch)` of R140. -/
def Protocol.timing (P : Protocol) (ch : Char8) : PulseTiming := if ch = charOne then P.one else P.zero

/-- `bits(P, p, S)` of R140. -/
def bitsEvents (P : Protocol) (p : Half) (S : List Char8) : List Event :=
  S.flatMap fun ch => pulseEvents P p (P.timing ch)

/-- `frame1(P, p, A, C)` of R140. -/
def frameEvents (P : Protocol) (p : Half) (A C : List Char8) : List Event :=
  (List.replicate nSync.toNat (pulseEvents P p P.sync)).flatten ++ [.delay gapSection]
    ++ bitsEvents P p A ++ bitsEvents P p C ++ [.delay gapRepeat]

/-- `txframe(P, p, r, A, C)` of R140. -/
def txframeTrace (P : Protocol) (p : Half) (r : Nat) (A C : List Char8) : List Event :=
  (List.replicate r (frameEvents P p A C)).flatten

end Sys2Proof.Machine
end

