-- ==== Sys2Proof/Machine/Pulse.lean ====
section
/-! DEFINITION. The Pulse Encoder family: SETPLEN and SETPROTO (40_pulse_encoder.md). TXPULSE is in Ops. -/

namespace Sys2Proof.Machine

/-- SETPLEN (40_pulse_encoder.md R130): `PLEN <- us`. -/
def execSetplen (us : Half) (s : State) : Host.Outcome State Fault Refusal :=
  .next { s with plen := us }

/-- SETPROTO (40_pulse_encoder.md R128): the built-in default protocol. -/
def execSetproto (s : State) : Host.Outcome State Fault Refusal :=
  .next (setProtocol defPlen defSync defZero defOne s)

end Sys2Proof.Machine
end

