-- ==== Sys2Proof/Machine/Dispatch.lean ====
section
/-! DEFINITION. The meaning of each instruction: one arm per row of the opcode table. -/

namespace Sys2Proof.Machine

def exec (i : Instr) (s : State) : Host.Outcome State Fault Refusal :=
  match i with
  | .cfgout pin => Sys2Proof.Machine.execCfgout pin s
  | .setrep n => Sys2Proof.Machine.execSetrep n s
  | .seladdr index => Sys2Proof.Machine.execSeladdr index s
  | .send c => Sys2Proof.Machine.execSend c s
  | .setplen us => Sys2Proof.Machine.execSetplen us s
  | .setproto => Sys2Proof.Machine.execSetproto s
  | .one => Sys2Proof.Machine.execOne s
  | .zero ch => Sys2Proof.Machine.execZero ch s

end Sys2Proof.Machine
end

