-- ==== Sys2Proof/Machine/Port.lean ====
section
/-! DEFINITION. The command port and the two ways an instruction is placed for the next step: a command word the host issues
(43_driver_facade.md R186), or a symbol of the address string (41_bitstring_transmitter.md R152). -/

namespace Sys2Proof.Machine

/-- The host's next word, and the state once the port has taken it; none when the host has nothing to issue (log 1, log 2). -/
def takeWord (s : State) : Option (Word × State) :=
  match s.hostOps with
  | [] => none
  | w :: rest => some (w, { s with hostOps := rest })

/-- The host's next word is `w` and HFPE is idle. -/
def presentWord (w : Word) (s : State) : State := { s with phase := .idle, hostOps := w :: s.hostOps }

/-- The character `ch` is the first address symbol, and the sequencer stands at it: an address and a pin are selected, at least
one repeat is left, and the sub-step is HI_SET (10_state.md R47 a, b, c; log 7). -/
def placeSymbol (ch : Char8) (s : State) : State :=
  { s with
    pinSet := true, addrSet := true
    phase := .addr, rep := if s.rep = 0#16 then 1#16 else s.rep
    idx := 0#6, sub := .hiSet
    addr := s.addr.set 0 ch }

end Sys2Proof.Machine
end

