-- ==== Sys2Proof/Machine/Step.lean ====
section
/-! DEFINITION. One step of the machine: the host's when HFPE is idle, the sequencer's when it is busy (00_scope.md R7,
41_bitstring_transmitter.md R150). -/

namespace Sys2Proof.Machine

/-- The host's step (43_driver_facade.md R186): the word is taken, decoded and executed; an illegal word raises ILLEGAL_OP
(60_exceptions.md R219); with no word to take HFPE waits (60_exceptions.md R234, log 2). -/
def hostStep (s : State) : Host.Outcome State Fault Refusal :=
  match takeWord s with
  | none => .next s
  | some (w, s1) =>
    match decodeWord w with
    | .ok i => exec i s1
    | .illegal _ => .next (raise .illegalOp s1)

/-- One step. A send reads ADDR and CODE (41_bitstring_transmitter.md R150). -/
def step (s : State) : Host.Outcome State Fault Refusal :=
  match s.phase with
  | .idle => hostStep s
  | .sync => seqStep s.addr.toList s.code.toList s
  | .gaps => seqStep s.addr.toList s.code.toList s
  | .addr => seqStep s.addr.toList s.code.toList s
  | .cmd => seqStep s.addr.toList s.code.toList s
  | .gapr => seqStep s.addr.toList s.code.toList s

/-- `n` steps, stopping at a fault or a refusal. -/
def stepRun : Nat → State → Host.Outcome State Fault Refusal
  | 0, s => .next s
  | n + 1, s =>
    match step s with
    | .next t => stepRun n t
    | .fault r => .fault r
    | .refused r => .refused r

/-- The state whose next step runs the instruction with these bits: a command word at the port, or, for a row of 8 bits, a
symbol of the address string (log 1, log 7). -/
def State.withFetchWord (s : State) (nbits w : Nat) : State :=
  if nbits = 8 then placeSymbol (BitVec.ofNat 8 w) s else presentWord (BitVec.ofNat 32 w) s

end Sys2Proof.Machine
end

