-- ==== Sys2Proof/Machine/Tick.lean ====
section
/-! DEFINITION. The tick level (41_bitstring_transmitter.md R157, 10_state.md R42): below the machine's step, which is one event,
a hold lasts as many ticks of 1 µs as its Delay says, and the step's changes come with the last of them. -/

namespace Sys2Proof.Machine

/-- The machine between two ticks: its state, with the counter of a hold in progress counted down; the ticks that hold has had so
far, 0 outside a hold, which the model keeps because the Delay emitted at its end has the whole length; and the microseconds gone
by (log 16). -/
structure TickState where
  state : State
  spent : Dur
  now : Nat
  deriving DecidableEq, Repr

/-- A step of the event level taken at a time, no hold being in progress after it. -/
def stepAt (f : State → Host.Outcome State Fault Refusal) (s : State) (now : Nat) : Host.Outcome TickState Fault Refusal :=
  match f s with
  | .next t => .next ⟨t, 0#24, now⟩
  | .fault r => .fault r
  | .refused r => .refused r

/-- One tick of a hold, or a step that takes no tick (R157), under the event level's step `f`. A tick counts the hold's counter down
by one and changes nothing else, but the tick that brings it to 0 is the step of the whole hold. A PinLevel, a `Delay(0)` and an
operation of the host take no tick. -/
def tickStep (f : State → Host.Outcome State Fault Refusal) (x : TickState) : Host.Outcome TickState Fault Refusal :=
  match holdCounter x.state with
  | none => stepAt f x.state x.now
  | some d =>
    if d = 0#24 then stepAt f x.state x.now
    else if d = 1#24 then stepAt f (withHoldCounter (x.spent + 1#24) x.state) (x.now + 1)
    else .next ⟨withHoldCounter (d - 1#24) x.state, x.spent + 1#24, x.now + 1⟩

/-- `n` of them, stopping at a fault or a refusal. -/
def tickRun (f : State → Host.Outcome State Fault Refusal) : Nat → TickState → Host.Outcome TickState Fault Refusal
  | 0, x => .next x
  | n + 1, x =>
    match tickStep f x with
    | .next y => tickRun f n y
    | .fault r => .fault r
    | .refused r => .refused r

/-- The tick-level steps a hold of `d` microseconds takes: its ticks, or for a `Delay(0)` the one step that takes no tick. -/
def holdSteps (d : Dur) : Nat := if d = 0#24 then 1 else d.toNat

end Sys2Proof.Machine
end

