-- ==== Sys2Proof/Machine/Wave.lean ====
section
/-! DEFINITION. What is derived from a trace: the waveform (00_scope.md R9), its duration and high time (41_bitstring_transmitter.md
R160), its pulses (R145) and the level it leaves (10_state.md R36). No operation reads any of it. -/

namespace Sys2Proof.Machine

/-- A waveform segment: a level, `none` for unknown, held for a number of microseconds. -/
abbrev Segment := Option Level × Nat

/-- `push` of R9: append a hold, merging it with the last segment when the level is the same. -/
def pushSegment (out : List Segment) (lvl : Option Level) (t : Nat) : List Segment :=
  if t = 0 then out
  else match out.getLast? with
    | some (l0, t0) => if l0 = lvl then out.dropLast ++ [(lvl, t0 + t)] else out ++ [(lvl, t)]
    | none => [(lvl, t)]

/-- The loop of `wave`, R9: current level, microseconds held so far, segments so far. -/
def waveLoop : List Event → Option Level → Nat → List Segment → List Segment
  | [], cur, acc, out => pushSegment out cur acc
  | .pinLevel _ v :: rest, cur, acc, out =>
    if some v = cur then waveLoop rest cur acc out else waveLoop rest (some v) 0 (pushSegment out cur acc)
  | .delay d :: rest, cur, acc, out => waveLoop rest cur (acc + d.toNat) out
  | .pinMode _ :: rest, cur, acc, out => waveLoop rest cur acc out

/-- `wave(trace, L0)` of R9, for a trace that drives one pin. -/
def wave (tr : List Event) (start : Option Level) : List Segment := waveLoop tr start 0 []

/-- Does an event concern a pin's waveform: time passes for every pin, a level write only for its own. -/
def Event.seenOn (pin : Half) : Event → Bool
  | .pinMode _ => true
  | .pinLevel p _ => p == pin
  | .delay _ => true

/-- The waveform of one pin of a trace that may drive several (R9). -/
def waveOn (pin : Half) (tr : List Event) (start : Option Level) : List Segment :=
  wave (tr.filter (Event.seenOn pin)) start

/-- The microseconds an event takes (R9). -/
def Event.time : Event → Nat
  | .pinMode _ => 0
  | .pinLevel _ _ => 0
  | .delay d => d.toNat

/-- The duration of a trace: the sum of its Delay operands. -/
def duration (tr : List Event) : Nat := (tr.map Event.time).sum

/-- The microseconds a waveform is HIGH. -/
def highTime (segs : List Segment) : Nat :=
  ((segs.filter fun g => g.1 = some .high).map Prod.snd).sum

/-- Is an event the first of a pulse: each TXPULSE drives HIGH exactly once (40_pulse_encoder.md R120). -/
def Event.startsPulse : Event → Bool
  | .pinMode _ => false
  | .pinLevel _ .high => true
  | .pinLevel _ .low => false
  | .delay _ => false

/-- The number of pulse events of a trace (41_bitstring_transmitter.md R145). -/
def pulseCount (tr : List Event) : Nat := tr.countP Event.startsPulse

/-- LEVEL after one event (10_state.md R36). -/
def levelAfter (l : Option Level) : Event → Option Level
  | .pinMode _ => none
  | .pinLevel _ v => some v
  | .delay _ => l

/-- LEVEL as a trace leaves it, from the reset value unknown (10_state.md R36). -/
def levelOfTrace (tr : List Event) : Option Level := tr.foldl levelAfter none

end Sys2Proof.Machine
end

