-- ==== Sys2Proof/Safety.lean ====
section
/-! DEFINITION. What counts as a safe run, and the invariants of HFPE, in the terms the statements use. -/

namespace Sys2Proof

open Sys2Proof.Machine

/-- The state has gone wrong: some ERR bit is set (60_exceptions.md R221, 70_reset_and_hazards.md R261). Nothing is claimed of a
trace that leads to it; a claim about the trace of a run takes that this is false at its end as a premise (R221, log 13). -/
def Safety.goneWrong (s : State) : Prop := s.err ≠ 0#5

/-- The run has ended, well or not: the host has no word left and HFPE is idle (70_reset_and_hazards.md R261). -/
def Safety.runEnded (s : State) : Prop := s.hostOps = [] ∧ s.phase = .idle

/-- The state is final: the run has ended, and not gone wrong; a state with an ERR bit set is never final (60_exceptions.md
R221). -/
def Safety.finalState (s : State) : Prop := Safety.runEnded s ∧ ¬ Safety.goneWrong s

/-- The premise a claim about a real platform adds (92_eei_decisions.md D22): the configured pin is one it can drive. -/
def Safety.pinUsable (s : State) : Prop := Config.pinValid s.pin = true

/-- The first characters of the four command names: o, l, m, h (30_encoding.md R94). -/
def Safety.commandLetter : Fin 4 → Char8
  | 0 => 0x6F#8
  | 1 => 0x6C#8
  | 2 => 0x6D#8
  | 3 => 0x68#8

/-- No HIGH hold is in progress: idle, in a gap, or before a pulse. -/
def Safety.betweenPulses (s : State) : Prop :=
  match s.phase with
  | .idle => True
  | .gaps => True
  | .gapr => True
  | .sync => s.sub = .hiSet
  | .addr => s.sub = .hiSet
  | .cmd => s.sub = .hiSet

/-- LEVEL inside a pulse, by the sub-step about to run (40_pulse_encoder.md R120). -/
def Safety.levelInPulse (s : State) : Prop :=
  match s.sub with
  | .hiSet => True
  | .hiHold => s.level = some .high
  | .loSet => s.level = some .high
  | .loHold => s.level = some .low

/-- HCNT and LCNT inside a pulse of timing `t`, by the sub-step about to run (41_bitstring_transmitter.md R153). -/
def Safety.countersInPulse (t : PulseTiming) (s : State) : Prop :=
  match s.sub with
  | .hiSet => s.hcnt = 0#24 ∧ s.lcnt = 0#24
  | .hiHold => s.hcnt.toNat = s.plen.toNat * t.high.toNat ∧ s.lcnt.toNat = s.plen.toNat * t.low.toNat
  | .loSet => s.hcnt = 0#24 ∧ s.lcnt.toNat = s.plen.toNat * t.low.toNat
  | .loHold => s.hcnt = 0#24 ∧ s.lcnt.toNat = s.plen.toNat * t.low.toNat

/-- The duration counters (10_state.md R42): all 0 while idle, the gap's length in a gap, the pulse's products in a pulse. -/
def Safety.countersLoaded (s : State) : Prop :=
  match s.phase with
  | .idle => s.hcnt = 0#24 ∧ s.lcnt = 0#24 ∧ s.gcnt = 0#24
  | .gaps => s.hcnt = 0#24 ∧ s.lcnt = 0#24 ∧ s.gcnt = 5000#24
  | .gapr => s.hcnt = 0#24 ∧ s.lcnt = 0#24 ∧ s.gcnt = 26000#24
  | .sync => s.gcnt = 0#24 ∧ Safety.countersInPulse s.syncTiming s
  | .addr => s.gcnt = 0#24 ∧ ∃ t, curTiming s.addr.toList s.code.toList s = some t ∧ Safety.countersInPulse t s
  | .cmd => s.gcnt = 0#24 ∧ ∃ t, curTiming s.addr.toList s.code.toList s = some t ∧ Safety.countersInPulse t s

/-- The invariant of 10_state.md R47 (the spec derives it), with the counters of R42, LEVEL as the trace leaves it (R36), and
where the strings come from (R30, R32). -/
structure Safety.Inv (s : State) : Prop where
  /-- R47 a. -/
  selected : s.phase ≠ .idle → s.pinSet = true ∧ s.addrSet = true
  /-- R47 b, and REP never above REPEAT. -/
  repeatsLeft : s.phase ≠ .idle → 1 ≤ s.rep.toNat ∧ s.rep.toNat ≤ s.repeatCount.toNat
  /-- R47 c. -/
  syncLeft : s.phase = .sync → 1 ≤ s.scnt.toNat ∧ s.scnt.toNat ≤ 12
  /-- R47 c. -/
  addrIndex : s.phase = .addr → s.idx.toNat < 42
  /-- R47 c. -/
  cmdIndex : s.phase = .cmd → s.idx.toNat < 26
  /-- R47 d: LEVEL is what the trace's last PinMode or PinLevel left. -/
  levelTraced : s.level = levelOfTrace s.trace
  /-- R47 d: where no pulse is in progress the pin is not HIGH. -/
  levelRest : Safety.betweenPulses s → s.level ≠ some .high
  /-- LEVEL inside a pulse. -/
  levelPulse : ¬ Safety.betweenPulses s → Safety.levelInPulse s
  /-- R47 e, R28. -/
  units : s.syncTiming = ⟨1#8, 2#8⟩ ∧ s.zeroTiming = ⟨2#8, 1#8⟩ ∧ s.oneTiming = ⟨1#8, 2#8⟩
  /-- R42. -/
  counters : Safety.countersLoaded s
  /-- R30: ADDR is a catalog address once one is selected. -/
  addrFromCatalog : s.addrSet = true → ∃ i, s.addr = addrRom i
  /-- R32: CODE is a catalog code during a send. -/
  codeFromCatalog : s.phase ≠ .idle → ∃ k, s.code = cmdCode k

/-- The sequencer steps left in the pulse in progress (41_bitstring_transmitter.md R153). -/
def Safety.pulseStepsLeft (s : State) : Nat :=
  match s.sub with
  | .hiSet => 4
  | .hiHold => 3
  | .loSet => 2
  | .loHold => 1

/-- The sequencer steps left in the current repeat of a send. -/
def Safety.repeatStepsLeft (s : State) : Nat :=
  match s.phase with
  | .idle => 0
  | .sync => 4 * (s.scnt.toNat - 1) + Safety.pulseStepsLeft s + 274
  | .gaps => 274
  | .addr => 4 * (41 - s.idx.toNat) + Safety.pulseStepsLeft s + 105
  | .cmd => 4 * (25 - s.idx.toNat) + Safety.pulseStepsLeft s + 1
  | .gapr => 1

/-- The sequencer steps left in the send: 322 for every later repeat (41_bitstring_transmitter.md R145, R158). -/
def Safety.stepsLeft (s : State) : Nat :=
  match s.phase with
  | .idle => 0
  | .sync => 322 * (s.rep.toNat - 1) + Safety.repeatStepsLeft s
  | .gaps => 322 * (s.rep.toNat - 1) + Safety.repeatStepsLeft s
  | .addr => 322 * (s.rep.toNat - 1) + Safety.repeatStepsLeft s
  | .cmd => 322 * (s.rep.toNat - 1) + Safety.repeatStepsLeft s
  | .gapr => 322 * (s.rep.toNat - 1) + Safety.repeatStepsLeft s

end Sys2Proof
end

