-- ==== Sys2Proof/Certificates/Slice0/Obligations.lean ====
section
/-! DEFINITION. The statements for the provers. A state in a conclusion is written as an update of the state before, so each such
equation is the instruction's frame as well: every register it does not name, and the host's words, are unchanged. Where the
spec marks a rule as derived or as a decision of its own, the statement has basis derived and cites the section. -/

open Sys2Proof Sys2Proof.Machine

/-! ### Encoding (30_encoding.md) -/

/-- Decoding the encoding of a well-formed instruction gives it back, every operand at every value. That ZERO gives back the very
character it was read from is the model's choice (log 11, DEDUCED): the spec reads 255 codes as one ZERO. -/
def Obligations.DecodeOfEncode : Prop :=
  ∀ i : Instr, i.wellFormed = true → decode (encode i) = .ok i

/-- What the decoder accepts is well formed, and is the encoding of the instruction it gives. For command words this says that no
bit is dropped; for characters it is the model's choice (log 11, DEDUCED: ZERO keeps the character it was read from), since the
spec reads 255 codes as one ZERO. -/
def Obligations.EncodeOfDecode : Prop :=
  ∀ (c : Code) (i : Instr), decode c = .ok i → i.wellFormed = true ∧ encode i = c

/-- 30_encoding.md section 2: a word selects a row of the opcode map exactly when `w & mask = match`, the operand is the low bits
as they stand, and a word that selects no row is illegal. -/
def Obligations.OpcodeMapByMaskAndMatch : Prop :=
  ∀ w : Word,
    (w &&& 0xFFFF0000#32 = 0x10000000#32 ↔ decodeWord w = .ok (.cfgout (w.setWidth 16))) ∧
    (w &&& 0xFFFF0000#32 = 0x20000000#32 ↔ decodeWord w = .ok (.setrep (w.setWidth 16))) ∧
    (w &&& 0xFFFF0000#32 = 0x30000000#32 ↔ decodeWord w = .ok (.seladdr (w.setWidth 16))) ∧
    (w &&& 0xFFFFFF00#32 = 0x40000000#32 ↔ decodeWord w = .ok (.send (w.setWidth 8))) ∧
    (w &&& 0xFFFF0000#32 = 0x50000000#32 ↔ decodeWord w = .ok (.setplen (w.setWidth 16))) ∧
    (w &&& 0xFFFFFFFF#32 = 0x60000000#32 ↔ decodeWord w = .ok .setproto) ∧
    ((∃ r, decodeWord w = .illegal r) ↔
      w &&& 0xFFFF0000#32 ≠ 0x10000000#32 ∧ w &&& 0xFFFF0000#32 ≠ 0x20000000#32 ∧
      w &&& 0xFFFF0000#32 ≠ 0x30000000#32 ∧ w &&& 0xFFFFFF00#32 ≠ 0x40000000#32 ∧
      w &&& 0xFFFF0000#32 ≠ 0x50000000#32 ∧ w &&& 0xFFFFFFFF#32 ≠ 0x60000000#32)

/-- 30_encoding.md section 3: the illegal words, by the arithmetic of their fields, and what one does when the host issues it:
ERR bit 4 is set and nothing else changes. -/
def Obligations.IllegalWordsRaiseIllegalOp : Prop :=
  (∀ w : Word, (∃ r, decodeWord w = .illegal r) ↔
    (w.toNat / 2 ^ 28 = 0 ∨ 7 ≤ w.toNat / 2 ^ 28 ∨ (w.toNat / 2 ^ 16) % 2 ^ 12 ≠ 0 ∨
      (w.toNat / 2 ^ 28 = 4 ∧ (w.toNat / 2 ^ 8) % 2 ^ 8 ≠ 0) ∨ (w.toNat / 2 ^ 28 = 6 ∧ w.toNat % 2 ^ 16 ≠ 0))) ∧
  (∀ (s : State) (w : Word) (rest : List Word) (r : Illegal), s.phase = .idle → s.hostOps = w :: rest →
    decodeWord w = .illegal r → step s = .next { s with hostOps := rest, err := s.err ||| 0b10000#5 })

/-- Words of 30_encoding.md section 7, written out from the format: a sanity statement. -/
def Obligations.WorkedWordsDecode : Prop :=
  decode (.word 0x10000004#32) = .ok (.cfgout 4#16) ∧ decode (.word 0x20000001#32) = .ok (.setrep 1#16) ∧
  decode (.word 0x30000002#32) = .ok (.seladdr 2#16) ∧ decode (.word 0x4000006F#32) = .ok (.send 0x6F#8) ∧
  decode (.word 0x5000015E#32) = .ok (.setplen 350#16) ∧ decode (.word 0x60000000#32) = .ok .setproto ∧
  decode (.char 0x31#8) = .ok .one ∧ decode (.char 0x30#8) = .ok (.zero 0x30#8)

/-- 30_encoding.md sections 4 and 5: no command word is a frame symbol, so the host cannot issue ONE or ZERO; they come from
the characters of a string alone, of which none is illegal. -/
def Obligations.SymbolsComeOnlyFromCharacters : Prop :=
  (∀ (w : Word) (i : Instr), decodeWord w = .ok i → i ≠ .one ∧ ∀ ch, i ≠ .zero ch) ∧
  (∀ ch : Char8, (ch = 0x31#8 → decode (.char ch) = .ok .one) ∧ (ch ≠ 0x31#8 → decode (.char ch) = .ok (.zero ch)))

/-! ### The step and the instruction it runs -/

/-- While idle, the step takes the host's next word and is exec of the instruction it decodes to, on the state without that word;
with no word to take, HFPE waits and its state stays (the wait is the model's reading, log 2). -/
def Obligations.StepRunsHostOperation : Prop :=
  (∀ (s : State) (w : Word) (rest : List Word) (i : Instr), s.phase = .idle → s.hostOps = w :: rest →
    decode (.word w) = .ok i → step s = exec i { s with hostOps := rest }) ∧
  (∀ s : State, s.phase = .idle → s.hostOps = [] → step s = .next s)

/-- At the start of an address or command pulse the step fetches the symbol at IDX, and emits the first event of the pulse of
the instruction it decodes to, with the counters loaded from that instruction's timing (41_bitstring_transmitter.md section 3;
that exec of a symbol is the whole pulse is the model's choice, log 7). -/
def Obligations.StepFetchesTheSymbol : Prop :=
  ∀ (s : State) (ch : Char8), s.sub = .hiSet →
    ((s.phase = .addr ∧ s.addr.toList[s.idx.toNat]? = some ch) ∨ (s.phase = .cmd ∧ s.code.toList[s.idx.toNat]? = some ch)) →
    ∃ t, s.instrTiming (decodeSymbol ch) = some t ∧
      step s = .next { s with
        hcnt := pulseDur s.plen t.high, lcnt := pulseDur s.plen t.low, level := some .high,
        trace := s.trace ++ [.pinLevel s.pin .high], sub := .hiHold }

/-- Four steps from the start of a symbol's pulse are exec of the symbol, and then the advance of IDX or the change of section
(41_bitstring_transmitter.md section 3, R153 and R154, which the spec derives; log 7). -/
def Obligations.FourStepsRunTheSymbol : Prop :=
  (∀ (s : State) (ch : Char8), s.sub = .hiSet → s.phase = .addr → s.addr.toList[s.idx.toNat]? = some ch →
    ∃ t, exec (decodeSymbol ch) s = .next t ∧
      stepRun 4 s = .next
        (if s.idx = 41#6 then { t with phase := .cmd, idx := 0#6 } else { t with idx := s.idx + 1#6 })) ∧
  (∀ (s : State) (ch : Char8), s.sub = .hiSet → s.phase = .cmd → s.code.toList[s.idx.toNat]? = some ch →
    ∃ t, exec (decodeSymbol ch) s = .next t ∧
      stepRun 4 s = .next
        (if s.idx = 25#6 then { t with phase := .gapr, idx := 26#6, gcnt := 26000#24 } else { t with idx := s.idx + 1#6 }))

/-- Four steps from the start of a sync pulse are one TXPULSE of the sync timing and the count down of SCNT, the last one going to
the 5000 µs gap; the gap steps emit what GCNT holds (41_bitstring_transmitter.md section 3). -/
def Obligations.FourStepsRunOneSyncPulse : Prop :=
  (∀ s : State, s.sub = .hiSet → s.phase = .sync →
    stepRun 4 s = .next
      (if s.scnt = 1#4 then { txpulse ⟨s.syncH, s.syncL⟩ s with scnt := 0#4, phase := .gaps, gcnt := 5000#24 }
        else { txpulse ⟨s.syncH, s.syncL⟩ s with scnt := s.scnt - 1#4 })) ∧
  (∀ s : State, s.phase = .gaps →
    step s = .next { s with trace := s.trace ++ [.delay s.gcnt], gcnt := 0#24, phase := .addr, idx := 0#6, sub := .hiSet }) ∧
  (∀ s : State, s.phase = .gapr →
    step s = .next
      (if s.rep = 1#16 then { s with trace := s.trace ++ [.delay s.gcnt], gcnt := 0#24, rep := 0#16, phase := .idle }
        else { s with
          trace := s.trace ++ [.delay s.gcnt], gcnt := 0#24, rep := s.rep - 1#16, phase := .sync, scnt := 12#4, sub := .hiSet }))

/-! ### The host operations (43_driver_facade.md, 40_pulse_encoder.md) -/

/-- CFGOUT records the pin, marks it set, forgets the level and emits PinMode (43_driver_facade.md section 2; LEVEL is the spec's
decision D8). -/
def Obligations.CfgoutRecordsThePin : Prop :=
  ∀ (pin : Half) (s : State), exec (.cfgout pin) s =
    .next { s with pin := pin, pinSet := true, level := none, trace := s.trace ++ [.pinMode pin] }

/-- SETREP writes REPEAT and nothing else (R191); its word is read so; no other instruction and no step of a send writes REPEAT; the
sequencer started with a pin sends REPEAT frames on strings of up to 63 symbols, which is what IDX holds (log 10, DESIGN CHOICE);
and an accepted SEND after it, on the machine's own steps, sends that many. The numbers of steps are R158's, which the spec derives;
that acceptance is one step and the frames the following ones is log 8 (DEDUCED); of a trace all this says what it does where the
run has not gone wrong (60_exceptions.md R221, decision D13 of the spec, log 13). -/
def Obligations.SetrepIsUsedUntilChanged : Prop :=
  (∀ (n : Half) (s : State), decode (.word (0x2000#16 ++ n)) = .ok (.setrep n) ∧
    exec (.setrep n) s = .next { s with repeatCount := n }) ∧
  (∀ (i : Instr) (s t : State), (∀ n, i ≠ .setrep n) → exec i s = .next t → t.repeatCount = s.repeatCount) ∧
  (∀ s t : State, s.phase ≠ .idle → step s = .next t → t.repeatCount = s.repeatCount) ∧
  (∀ (A C : List Char8) (s : State), A.length ≤ 63 → C.length ≤ 63 → s.phase = .idle → s.pinSet = true →
    ∃ t, seqRun A C (s.repeatCount.toNat * (4 * (12 + A.length + C.length) + 2)) (seqStart s) = .next t ∧
      t.phase = .idle ∧ t.err = s.err ∧
      (¬ Safety.goneWrong t →
        t.trace = s.trace ++ (List.replicate s.repeatCount.toNat (frameEvents s.protocol s.pin A C)).flatten)) ∧
  (∀ (s : State) (n : Half) (c : Char8) (code : Vector Char8 26) (rest : List Word), s.phase = .idle →
    s.hostOps = (0x2000#16 ++ n) :: (0x400000#24 ++ c) :: rest → lkcmd c = some code → s.addrSet = true → s.pinSet = true →
    ∃ t, stepRun (2 + 322 * n.toNat) s = .next t ∧ t.phase = .idle ∧ t.hostOps = rest ∧ t.repeatCount = n ∧ t.err = s.err ∧
      (¬ Safety.goneWrong t → t.trace =
        s.trace ++ (List.replicate n.toNat (frameEvents s.protocol s.pin s.addr.toList code.toList)).flatten))

/-- SELADDR with an index below 3 stores that catalog address; from 3 up it raises ADDR_INDEX_RANGE and changes nothing else
(43_driver_facade.md section 4; the fault is the spec's decision D13, log 13). -/
def Obligations.SeladdrStoresOrFaults : Prop :=
  (∀ (index : Fin 3) (s : State), exec (.seladdr (BitVec.ofNat 16 index.val)) s =
    .next { s with addr := addrRom index, addrSet := true }) ∧
  (∀ (index : Half) (s : State), 3 ≤ index.toNat → exec (.seladdr index) s = .next { s with err := s.err ||| 0b00010#5 })

/-- SELADDR twice with one index leaves what it leaves once (43_driver_facade.md section 4, property V10). -/
def Obligations.SeladdrIsIdempotent : Prop :=
  ∀ (index : Half) (s : State), ∃ t, exec (.seladdr index) s = .next t ∧ exec (.seladdr index) t = .next t

/-- SEND of one of the four command letters, with an address and a pin selected: CODE is latched, and the first repeat begins
unless REPEAT is 0 (43_driver_facade.md section 5, 41_bitstring_transmitter.md section 3; log 8). -/
def Obligations.SendAcceptedStartsTheFrame : Prop :=
  ∀ (k : Fin 4) (s : State), s.addrSet = true → s.pinSet = true →
    exec (.send (Safety.commandLetter k)) s = .next
      (if s.repeatCount = 0#16 then { s with code := cmdCode k }
        else { s with code := cmdCode k, rep := s.repeatCount, phase := .sync, scnt := 12#4, sub := .hiSet })

/-- SEND's three checks, in the order name, address, pin; the first that fails sets its ERR bit and nothing else changes,
whatever REPEAT is (43_driver_facade.md section 5, 60_exceptions.md section 3: decisions D13, D15, D16 of the spec, log 13). -/
def Obligations.SendChecksInOrder : Prop :=
  (∀ (c : Char8) (s : State), c ≠ 0x6F#8 → c ≠ 0x6C#8 → c ≠ 0x6D#8 → c ≠ 0x68#8 →
    exec (.send c) s = .next { s with err := s.err ||| 0b00001#5 }) ∧
  (∀ (k : Fin 4) (s : State), s.addrSet = false →
    exec (.send (Safety.commandLetter k)) s = .next { s with err := s.err ||| 0b01000#5 }) ∧
  (∀ (k : Fin 4) (s : State), s.addrSet = true → s.pinSet = false →
    exec (.send (Safety.commandLetter k)) s = .next { s with err := s.err ||| 0b00100#5 })

/-- SETPLEN writes PLEN and nothing else, for every operand; its word is read so; and while HFPE is busy no word is accepted and
PLEN stays, so it never changes a pulse in progress. -/
def Obligations.SetplenWritesOnlyPlen : Prop :=
  (∀ (us : Half) (s : State), decode (.word (0x5000#16 ++ us)) = .ok (.setplen us) ∧
    exec (.setplen us) s = .next { s with plen := us }) ∧
  (∀ s t : State, s.phase ≠ .idle → step s = .next t → t.hostOps = s.hostOps ∧ t.plen = s.plen)

/-- SETPROTO writes the seven protocol registers to the built-in default, which is their reset value, whatever SETPLEN did
before; it is idempotent; its word is read so; and it is accepted only while idle. -/
def Obligations.SetprotoRestoresTheDefault : Prop :=
  decode (.word 0x60000000#32) = .ok .setproto ∧
  (∀ s : State, exec .setproto s = .next { s with
    plen := 400#16, syncH := 1#8, syncL := 2#8, zeroH := 2#8, zeroL := 1#8, oneH := 1#8, oneL := 2#8 }) ∧
  (∀ s : State, ∃ t, exec .setproto s = .next t ∧ exec .setproto t = .next t ∧ t.protocol = State.reset.protocol) ∧
  (∀ (us : Half) (s : State), ∃ t, exec (.setplen us) s = .next t ∧ exec .setproto t = exec .setproto s) ∧
  (∀ s t : State, s.phase ≠ .idle → step s = .next t → t.hostOps = s.hostOps)

/-- SETPLEN changes the length of the pulse holds alone: the unit pairs, REPEAT and ADDR stay, and the frames before and after it
have the same number of events, and at each position of each frame the same event but for the pulse length in a pulse's holds:
twelve pulses of the sync timing, 5000 µs, a pulse a symbol of the address with that symbol's timing, a pulse a symbol of the
command with that symbol's timing, 26000 µs. -/
def Obligations.SetplenScalesOnlyPulseHolds : Prop :=
  ∀ (s : State) (us : Half) (r : Nat) (A C : List Char8), ∃ t, exec (.setplen us) s = .next t ∧
    t.protocol.sync = s.protocol.sync ∧ t.protocol.zero = s.protocol.zero ∧ t.protocol.one = s.protocol.one ∧
    t.repeatCount = s.repeatCount ∧ t.addr = s.addr ∧ t.pin = s.pin ∧ s.protocol.plen = s.plen ∧ t.protocol.plen = us ∧
    ∀ P : Protocol, P = s.protocol ∨ P = t.protocol →
      (txframeTrace P s.pin r A C).length = r * (4 * (12 + A.length + C.length) + 2) ∧
      ∀ k n, k < r → n = k * (4 * (12 + A.length + C.length) + 2) →
        (∀ j, j < 12 → ((txframeTrace P s.pin r A C).drop (n + 4 * j)).take 4 =
          [.pinLevel s.pin .high, .delay (pulseDur P.plen s.syncH), .pinLevel s.pin .low, .delay (pulseDur P.plen s.syncL)]) ∧
        (txframeTrace P s.pin r A C)[n + 48]? = some (.delay 5000#24) ∧
        (∀ j ch, A[j]? = some ch → ((txframeTrace P s.pin r A C).drop (n + 49 + 4 * j)).take 4 =
          if ch = 0x31#8 then
            [.pinLevel s.pin .high, .delay (pulseDur P.plen s.oneH), .pinLevel s.pin .low, .delay (pulseDur P.plen s.oneL)]
          else
            [.pinLevel s.pin .high, .delay (pulseDur P.plen s.zeroH), .pinLevel s.pin .low, .delay (pulseDur P.plen s.zeroL)]) ∧
        (∀ j ch, C[j]? = some ch → ((txframeTrace P s.pin r A C).drop (n + 49 + 4 * A.length + 4 * j)).take 4 =
          if ch = 0x31#8 then
            [.pinLevel s.pin .high, .delay (pulseDur P.plen s.oneH), .pinLevel s.pin .low, .delay (pulseDur P.plen s.oneL)]
          else
            [.pinLevel s.pin .high, .delay (pulseDur P.plen s.zeroH), .pinLevel s.pin .low, .delay (pulseDur P.plen s.zeroL)]) ∧
        (txframeTrace P s.pin r A C)[n + 49 + 4 * A.length + 4 * C.length]? = some (.delay 26000#24)

/-! ### The frame symbols and the pulse -/

/-- TXPULSE emits its four events in order, with the exact products as Delay operands, and leaves LEVEL LOW and HCNT and LCNT 0;
nothing else changes. -/
def Obligations.TxpulseEmitsFourEvents : Prop :=
  ∀ (t : PulseTiming) (s : State), ∃ dh dl : Dur,
    dh.toNat = s.plen.toNat * t.high.toNat ∧ dl.toNat = s.plen.toNat * t.low.toNat ∧
    txpulse t s = { s with
      hcnt := 0#24, lcnt := 0#24, level := some .low,
      trace := s.trace ++ [.pinLevel s.pin .high, .delay dh, .pinLevel s.pin .low, .delay dl] }

/-- The product of a pulse length and a unit count is exact in 24 bits: no overflow, no truncation (40_pulse_encoder.md
section 2, on the widths of decision D3). -/
def Obligations.PulseProductIsExact : Prop :=
  ∀ (plen : Half) (u : Units), (pulseDur plen u).toNat = plen.toNat * u.toNat

/-- The waveform a TXPULSE adds, from any start level: a HIGH and a LOW segment of the exact lengths, one high to low transition;
a hold of length 0 leaves no segment (40_pulse_encoder.md section 1, R121 and R123; 90_conflicts.md C10). -/
def Obligations.TxpulseWaveform : Prop :=
  ∀ (t : PulseTiming) (s : State) (start : Option Level), ∃ evs, (txpulse t s).trace = s.trace ++ evs ∧
    wave evs start =
      (if s.plen.toNat * t.high.toNat = 0 then [] else [(some .high, s.plen.toNat * t.high.toNat)]) ++
      (if s.plen.toNat * t.low.toNat = 0 then [] else [(some .low, s.plen.toNat * t.low.toNat)]) ∧
    duration evs = s.plen.toNat * (t.high.toNat + t.low.toNat)

/-- ONE: the character `'1'` is read as it, it is one TXPULSE of the one timing and nothing else, with the default protocol 400 µs
high and 800 µs low, and every `'1'` of a string, at any position of either section, is sent with the one timing. -/
def Obligations.OneSendsTheOneTiming : Prop :=
  decode (.char 0x31#8) = .ok .one ∧
  (∀ s : State, exec .one s = .next { s with
    hcnt := 0#24, lcnt := 0#24, level := some .low,
    trace := s.trace ++ [.pinLevel s.pin .high, .delay (pulseDur s.plen s.oneH), .pinLevel s.pin .low,
      .delay (pulseDur s.plen s.oneL)] }) ∧
  (∀ s : State, s.plen = 400#16 → s.oneH = 1#8 → s.oneL = 2#8 → ∃ t, exec .one s = .next t ∧
    t.trace = s.trace ++ [.pinLevel s.pin .high, .delay 400#24, .pinLevel s.pin .low, .delay 800#24]) ∧
  (∀ (A C : List Char8) (s : State), (s.phase = .addr ∧ A[s.idx.toNat]? = some 0x31#8) ∨
      (s.phase = .cmd ∧ C[s.idx.toNat]? = some 0x31#8) → curTiming A C s = some ⟨s.oneH, s.oneL⟩)

/-- ZERO: every other character is read as it, it is one TXPULSE of the zero timing and nothing else, with the default protocol
800 µs high and 400 µs low, and every such character of a string is sent with the zero timing. -/
def Obligations.ZeroSendsTheZeroTiming : Prop :=
  (∀ ch : Char8, ch ≠ 0x31#8 → decode (.char ch) = .ok (.zero ch)) ∧
  (∀ (ch : Char8) (s : State), exec (.zero ch) s = .next { s with
    hcnt := 0#24, lcnt := 0#24, level := some .low,
    trace := s.trace ++ [.pinLevel s.pin .high, .delay (pulseDur s.plen s.zeroH), .pinLevel s.pin .low,
      .delay (pulseDur s.plen s.zeroL)] }) ∧
  (∀ (ch : Char8) (s : State), s.plen = 400#16 → s.zeroH = 2#8 → s.zeroL = 1#8 → ∃ t, exec (.zero ch) s = .next t ∧
    t.trace = s.trace ++ [.pinLevel s.pin .high, .delay 800#24, .pinLevel s.pin .low, .delay 400#24]) ∧
  (∀ (A C : List Char8) (s : State) (ch : Char8), ch ≠ 0x31#8 → (s.phase = .addr ∧ A[s.idx.toNat]? = some ch) ∨
      (s.phase = .cmd ∧ C[s.idx.toNat]? = some ch) → curTiming A C s = some ⟨s.zeroH, s.zeroL⟩)

/-! ### Faults, and which registers an operation touches -/

/-- Taking a fault sets the bit of its cause, `c - 1`, leaves every other ERR bit, and changes nothing else (60_exceptions.md
section 1, R214: decision D13 of the spec, log 13). -/
def Obligations.RaiseSetsOnlyItsBit : Prop :=
  ∀ (c : Cause) (s : State),
    (∀ k : Nat, k < 5 → (raise c s).err.getLsbD k = (decide (k + 1 = c.code) || s.err.getLsbD k)) ∧
    raise c s = { s with err := (raise c s).err }

/-- A step that changes ERR is a host operation that has faulted: it has set one bit that was clear, taken the word, and changed
nothing else; so a faulting operation emits nothing and starts no send (60_exceptions.md section 1, log 13). -/
def Obligations.FaultingStepChangesOnlyErr : Prop :=
  ∀ s t : State, step s = .next t → t.err ≠ s.err →
    s.phase = .idle ∧ ∃ w rest k, s.hostOps = w :: rest ∧ k < 5 ∧ s.err.getLsbD k = false ∧
      t = { s with hostOps := rest, err := s.err ||| (1#5 <<< k) }

/-- ERR bits only ever go from 0 to 1 (10_state.md section 6, R47 f), and no operation reads ERR: a step, and a run of any length,
does the same, and adds the same bits, whatever ERR held (95_test_vectors.md X10: a set ERR bit blocks nothing). -/
def Obligations.ErrIsStickyAndNeverRead : Prop :=
  (∀ s t : State, step s = .next t → ∃ d : BitVec 5, t.err = s.err ||| d ∧
    ∀ e : BitVec 5, step { s with err := e } = .next { t with err := e ||| d }) ∧
  (∀ (n : Nat) (s t : State), stepRun n s = .next t → ∃ d : BitVec 5, t.err = s.err ||| d ∧
    ∀ e : BitVec 5, stepRun n { s with err := e } = .next { t with err := e ||| d })

/-- A run that has gone wrong stays so (60_exceptions.md section 1, R221, decision D13 of the spec, log 13): a fault makes a state
gone wrong, no step mends it, no such state is final, and a run that ends in a final state has no gone-wrong state in it. -/
def Obligations.GoneWrongIsNeverFinal : Prop :=
  (∀ (c : Cause) (s : State), Safety.goneWrong (raise c s)) ∧
  (∀ s t : State, Safety.goneWrong s → step s = .next t → Safety.goneWrong t ∧ ¬ Safety.finalState t) ∧
  (∀ (n : Nat) (s t : State), stepRun n s = .next t → Safety.finalState t →
    ∀ k, k ≤ n → ∃ u, stepRun k s = .next u ∧ ¬ Safety.goneWrong u)

/-- The trace only grows and is never read (10_state.md section 4, R38). -/
def Obligations.TraceOnlyGrowsAndIsNeverRead : Prop :=
  ∀ s t : State, step s = .next t → ∃ evs, t.trace = s.trace ++ evs ∧
    ∀ tr : List Event, step { s with trace := tr } = .next { t with trace := tr ++ evs }

/-- LEVEL is never read: a step writes it or leaves it, the same way whatever it held (10_state.md section 4, R36). -/
def Obligations.LevelIsNeverRead : Prop :=
  ∀ s t : State, step s = .next t →
    (∀ l : Option Level, step { s with level := l } = .next t) ∨
    (t.level = s.level ∧ ∀ l : Option Level, step { s with level := l } = .next { t with level := l })

/-- Each register is written only by the operations the table of 10_state.md section 6 names as its writers. -/
def Obligations.RegistersAreWrittenByTheirWriters : Prop :=
  ∀ (i : Instr) (s t : State), exec i s = .next t →
    (t.pin ≠ s.pin ∨ t.pinSet ≠ s.pinSet → ∃ p, i = .cfgout p) ∧
    (t.repeatCount ≠ s.repeatCount → ∃ n, i = .setrep n) ∧
    (t.plen ≠ s.plen → (∃ us, i = .setplen us) ∨ i = .setproto) ∧
    (t.syncTiming ≠ s.syncTiming ∨ t.zeroTiming ≠ s.zeroTiming ∨ t.oneTiming ≠ s.oneTiming → i = .setproto) ∧
    (t.addr ≠ s.addr ∨ t.addrSet ≠ s.addrSet → ∃ index, i = .seladdr index ∧ index.toNat < 3) ∧
    (t.code ≠ s.code ∨ t.phase ≠ s.phase ∨ t.rep ≠ s.rep ∨ t.scnt ≠ s.scnt ∨ t.sub ≠ s.sub → ∃ c, i = .send c) ∧
    (t.err ≠ s.err → (∃ c, i = .send c) ∨ ∃ index, i = .seladdr index ∧ 3 ≤ index.toNat) ∧
    (t.level ≠ s.level ∨ t.trace ≠ s.trace → (∃ p, i = .cfgout p) ∨ i = .one ∨ ∃ ch, i = .zero ch) ∧
    (t.hcnt ≠ s.hcnt ∨ t.lcnt ≠ s.lcnt → i = .one ∨ ∃ ch, i = .zero ch) ∧
    t.idx = s.idx ∧ t.gcnt = s.gcnt ∧ t.hostOps = s.hostOps

/-! ### The catalogs (42_command_table.md) -/

/-- LKCMD in full: the four letters give the four codes, every other character gives none, and SEND of such a character raises
UNKNOWN_COMMAND and sends nothing; a result is the code of the first entry whose name begins with the character. -/
def Obligations.LkcmdMatchesTheFirstCharacter : Prop :=
  (∀ c : Char8, lkcmd c =
    if c = 0x6F#8 then some (cmdCode 0) else if c = 0x6C#8 then some (cmdCode 1)
    else if c = 0x6D#8 then some (cmdCode 2) else if c = 0x68#8 then some (cmdCode 3) else none) ∧
  (∀ (c : Char8) (k : Fin 4), (cmdName k).head? = some c → (∀ j : Fin 4, j < k → (cmdName j).head? ≠ some c) →
    lkcmd c = some (cmdCode k)) ∧
  (∀ c : Char8, (∀ k : Fin 4, (cmdName k).head? ≠ some c) → lkcmd c = none) ∧
  (∀ (c : Char8) (s : State), lkcmd c = none → exec (.send c) s = .next (raise .unknownCommand s))

/-- Every result of LKCMD is 26 symbols, each `'0'` or `'1'`. -/
def Obligations.LkcmdResultsAreCodes : Prop :=
  ∀ (c : Char8) (code : Vector Char8 26), lkcmd c = some code →
    code.toList.length = 26 ∧ ∀ ch ∈ code.toList, ch = 0x30#8 ∨ ch = 0x31#8

/-- LKADDR gives the catalog entry below 3 and none from 3 up, which SELADDR turns into ADDR_INDEX_RANGE; every result is 42
symbols, each `'0'` or `'1'`. -/
def Obligations.LkaddrResultsAreAddresses : Prop :=
  (∀ (i : Half) (h : i.toNat < 3), lkaddr i = some (addrRom ⟨i.toNat, h⟩)) ∧
  (∀ i : Half, 3 ≤ i.toNat → lkaddr i = none) ∧
  (∀ (i : Half) (s : State), lkaddr i = none → exec (.seladdr i) s = .next (raise .addrIndexRange s)) ∧
  (∀ (i : Half) (a : Vector Char8 42), lkaddr i = some a →
    a.toList.length = 42 ∧ ∀ ch ∈ a.toList, ch = 0x30#8 ∨ ch = 0x31#8)

/-! ### TXFRAME at the operation level (41_bitstring_transmitter.md sections 1 and 4) -/

/-- TXFRAME on strings of any length: with no pin it raises PIN_NOT_CONFIGURED and emits nothing; else it emits the five steps
REPEAT times, as the pure function has them, and changes nothing but the trace, LEVEL and the pulse counters (R140). What it emits
is claimed where it does not end gone wrong (60_exceptions.md R221); a set ERR bit blocks nothing (R214, 95_test_vectors.md X10).
The fault and its continuation are the spec's decision D13 (log 13). -/
def Obligations.TxframeEmitsTheFrames : Prop :=
  ∀ (A C : List Char8) (s : State),
    (s.pinSet = false → txframe A C s = { s with err := s.err ||| 0b00100#5 }) ∧
    (s.pinSet = true →
      txframe A C s = (if s.repeatCount = 0#16 then { s with trace := (txframe A C s).trace }
        else { s with trace := (txframe A C s).trace, level := some .low, hcnt := 0#24, lcnt := 0#24 }) ∧
      (¬ Safety.goneWrong (txframe A C s) →
        (txframe A C s).trace = s.trace ++ txframeTrace s.protocol s.pin s.repeatCount.toNat A C) ∧
      ∀ e : BitVec 5, txframe A C { s with err := e } = { txframe A C s with err := e })

/-- REPEAT is read once, at the start: 0 gives no event at all, `n` gives exactly `n` equal frames of 12 + a + c pulses, and no
step of a send in progress depends on REPEAT (R142). What is emitted is claimed where TXFRAME does not end gone wrong
(60_exceptions.md R221); a set ERR bit blocks nothing (R214, 95_test_vectors.md X10). These two are the spec's decision D13
(log 13). -/
def Obligations.RepeatCountGivesThatManyFrames : Prop :=
  (∀ (A C : List Char8) (s : State), s.pinSet = true → s.repeatCount = 0#16 → ¬ Safety.goneWrong (txframe A C s) →
    txframe A C s = s ∧ seqStart s = s) ∧
  (∀ (A C : List Char8) (s : State), s.pinSet = true → ¬ Safety.goneWrong (txframe A C s) → ∃ frame : List Event,
    (txframe A C s).trace = s.trace ++ (List.replicate s.repeatCount.toNat frame).flatten ∧
    pulseCount frame = 12 + A.length + C.length ∧ (txframe A C { s with repeatCount := 1#16 }).trace = s.trace ++ frame) ∧
  (∀ (A C : List Char8) (s t : State) (n : Half), seqStep A C s = .next t →
    seqStep A C { s with repeatCount := n } = .next { t with repeatCount := n }) ∧
  (∀ (A C : List Char8) (s : State) (e : BitVec 5), s.pinSet = true →
    txframe A C { s with err := e } = { txframe A C s with err := e } ∧ seqStart { s with err := e } = { seqStart s with err := e })

/-- The counting law: `r (4 (12 + a + c) + 2)` events, `r (12 + a + c)` of them pulses (41_bitstring_transmitter.md section 2,
R145, whose event count the spec derives). -/
def Obligations.FrameCountingLaw : Prop :=
  ∀ (P : Protocol) (p : Half) (r : Nat) (A C : List Char8),
    (txframeTrace P p r A C).length = r * (4 * (12 + A.length + C.length) + 2) ∧
    pulseCount (txframeTrace P p r A C) = r * (12 + A.length + C.length)

/-- The duration law for any timings (section 4, R160, derived by the spec), and its form for a send at the default units. -/
def Obligations.FrameDurationLaw : Prop :=
  (∀ (P : Protocol) (p : Half) (r : Nat) (A C : List Char8),
    duration (txframeTrace P p r A C) = r * (P.plen.toNat * (12 * (P.sync.high.toNat + P.sync.low.toNat) +
      ((A ++ C).map fun ch => (P.timing ch).high.toNat + (P.timing ch).low.toNat).sum) + 5000 + 26000)) ∧
  (∀ (plen p : Half) (r : Nat) (a : Vector Char8 42) (c : Vector Char8 26),
    duration (txframeTrace ⟨plen, ⟨1#8, 2#8⟩, ⟨2#8, 1#8⟩, ⟨1#8, 2#8⟩⟩ p r a.toList c.toList) =
      r * (240 * plen.toNat + 31000))

/-- The high time of a frame's waveform, from any start level (section 4, R160): only the pulses' high parts count. -/
def Obligations.FrameHighTimeLaw : Prop :=
  ∀ (P : Protocol) (p : Half) (r : Nat) (A C : List Char8) (start : Option Level),
    highTime (wave (txframeTrace P p r A C) start) =
      r * (P.plen.toNat * (12 * P.sync.high.toNat + P.one.high.toNat * (A ++ C).countP (· == 0x31#8) +
        P.zero.high.toNat * (A ++ C).countP (· != 0x31#8)))

/-- The waveform of `r` repeats has two segments a pulse when no hold is of length 0, the gaps merging into the low segment before
them (41_bitstring_transmitter.md section 2, R147, R148; 00_scope.md R9); with a pulse length of 0 all that is left is one low
segment of the gaps (90_conflicts.md C10). -/
def Obligations.FrameWaveformSegments : Prop :=
  ∀ (P : Protocol) (p : Half) (r : Nat) (A C : List Char8) (start : Option Level),
    (P.plen ≠ 0#16 → P.sync.high ≠ 0#8 → P.sync.low ≠ 0#8 → P.zero.high ≠ 0#8 → P.zero.low ≠ 0#8 →
      P.one.high ≠ 0#8 → P.one.low ≠ 0#8 →
      (wave (txframeTrace P p r A C) start).length = r * (2 * (12 + A.length + C.length))) ∧
    (P.plen = 0#16 → wave (txframeTrace P p r A C) start = if r = 0 then [] else [(some .low, r * 31000)])

/-- A waveform keeps the trace's time: its segments add up to the Delay operands, from any start level (00_scope.md section 4). -/
def Obligations.WaveformKeepsTime : Prop :=
  ∀ (tr : List Event) (start : Option Level), ((wave tr start).map Prod.snd).sum = duration tr

/-- A waveform is merged: no segment is of length 0 and no two neighbours have the same level (00_scope.md section 4,
90_conflicts.md C10). -/
def Obligations.WaveformIsMerged : Prop :=
  ∀ (tr : List Event) (start : Option Level), (∀ g ∈ wave tr start, g.2 ≠ 0) ∧
    ∀ (l r : List Segment) (a b : Segment), wave tr start = l ++ a :: b :: r → a.1 ≠ b.1

/-! ### The sequencer (41_bitstring_transmitter.md section 3) -/

/-- Each step of a send emits exactly one event, on the configured pin, and LEVEL follows it. -/
def Obligations.SequencerEmitsOneEventPerStep : Prop :=
  ∀ s t : State, s.phase ≠ .idle → step s = .next t →
    ∃ e, t.trace = s.trace ++ [e] ∧ t.level = levelAfter s.level e ∧
      ((s.sub = .hiSet ∧ e = .pinLevel s.pin .high) ∨ (s.sub = .loSet ∧ e = .pinLevel s.pin .low) ∨
        ∃ d, holdCounter s = some d ∧ e = .delay d)

/-- A step of a send leaves the configuration, the latch, ERR and the host's words as they were, so a send uses throughout what it
had at acceptance, and the port takes no word meanwhile (20_memory.md section 5, 43_driver_facade.md section 1). -/
def Obligations.SequencerLeavesTheConfiguration : Prop :=
  ∀ s t : State, s.phase ≠ .idle → step s = .next t →
    t.pin = s.pin ∧ t.pinSet = s.pinSet ∧ t.repeatCount = s.repeatCount ∧ t.protocol = s.protocol ∧
    t.addr = s.addr ∧ t.addrSet = s.addrSet ∧ t.code = s.code ∧ t.err = s.err ∧ t.hostOps = s.hostOps

/-- The transitions of PHASE, all of them, with the position that makes each (the table of 41_bitstring_transmitter.md section 3):
first for the sequencer as a function of its strings, where a section may be empty, then for the machine, whose strings have 42
and 26 symbols. The table's rows are the first part on strings of up to 63 symbols, which is what the 6 bits of IDX hold (R163); on
a longer string, where IDX wraps from 63 to 0 and the section goes on, it states the model's choice (log 10, DESIGN CHOICE). IDLE is
left exactly when the word taken is a SEND whose three checks pass and REPEAT is at least 1. -/
def Obligations.SequencerPhaseTransitions : Prop :=
  (∀ (A C : List Char8) (s t : State), seqStep A C s = .next t →
    (s.phase = .sync → t.phase = if s.sub = .loHold ∧ s.scnt = 1#4 then .gaps else .sync) ∧
    (s.phase = .gaps → t.phase = if A ≠ [] then .addr else if C ≠ [] then .cmd else .gapr) ∧
    (s.phase = .addr → t.phase =
      if s.sub = .loHold ∧ (s.idx + 1#6).toNat = A.length then (if C ≠ [] then .cmd else .gapr) else .addr) ∧
    (s.phase = .cmd → t.phase = if s.sub = .loHold ∧ (s.idx + 1#6).toNat = C.length then .gapr else .cmd) ∧
    (s.phase = .gapr → t.phase = if s.rep = 1#16 then .idle else .sync)) ∧
  (∀ s t : State, step s = .next t →
    (s.phase = .sync → t.phase = if s.sub = .loHold ∧ s.scnt = 1#4 then .gaps else .sync) ∧
    (s.phase = .gaps → t.phase = .addr) ∧
    (s.phase = .addr → t.phase = if s.sub = .loHold ∧ s.idx = 41#6 then .cmd else .addr) ∧
    (s.phase = .cmd → t.phase = if s.sub = .loHold ∧ s.idx = 25#6 then .gapr else .cmd) ∧
    (s.phase = .gapr → t.phase = if s.rep = 1#16 then .idle else .sync) ∧
    (s.phase = .idle →
      (t.phase = .idle ∨ t.phase = .sync) ∧
      (t.phase = .sync ↔ ∃ w rest c code, s.hostOps = w :: rest ∧ decodeWord w = .ok (.send c) ∧
        lkcmd c = some code ∧ s.addrSet = true ∧ s.pinSet = true ∧ 1 ≤ s.repeatCount.toNat) ∧
      (t.phase = .sync → t.rep = s.repeatCount ∧ t.scnt = 12#4 ∧ t.sub = .hiSet)))

/-- A section whose string is empty is skipped, which no send can cause (R154): after the gap, an empty address, or an empty address
and command; after the last address pulse, an empty command. -/
def Obligations.EmptySectionsAreSkipped : Prop :=
  (∀ s : State, s.phase = .gaps →
    seqStep [] [] s = .next { s with trace := s.trace ++ [.delay s.gcnt], gcnt := 26000#24, phase := .gapr } ∧
    (∀ (c : Char8) (C : List Char8), seqStep [] (c :: C) s =
      .next { s with trace := s.trace ++ [.delay s.gcnt], gcnt := 0#24, phase := .cmd, idx := 0#6, sub := .hiSet }) ∧
    (∀ (a : Char8) (A C : List Char8), seqStep (a :: A) C s =
      .next { s with trace := s.trace ++ [.delay s.gcnt], gcnt := 0#24, phase := .addr, idx := 0#6, sub := .hiSet })) ∧
  (∀ (A : List Char8) (s : State), s.phase = .addr → s.sub = .loHold → (s.idx + 1#6).toNat = A.length →
    seqStep A [] s = .next { s with
      trace := s.trace ++ [.delay s.lcnt], lcnt := 0#24, sub := .hiSet, idx := s.idx + 1#6
      phase := .gapr, gcnt := 26000#24 } ∧
    (∀ (c : Char8) (C : List Char8), seqStep A (c :: C) s = .next { s with
      trace := s.trace ++ [.delay s.lcnt], lcnt := 0#24, sub := .hiSet, idx := 0#6, phase := .cmd }))

/-- The sequencer refines TXFRAME (41_bitstring_transmitter.md section 4, R159, derived by the spec): started on strings of up to 63
symbols, which is what the 6 bits of IDX hold (R163, log 10), from an idle state with a pin, it is busy until exactly
`REPEAT (4 (12 + a + c) + 2)` steps are done (R158, derived by the spec), and is then where TXFRAME ends, but for the dead fields of
SEQ and GCNT, which are 0 or at the string's end. The two traces are claimed equal where the run does not end gone wrong
(60_exceptions.md R221); a set ERR bit blocks nothing (R214, 95_test_vectors.md X10). These two are the spec's decision D13
(log 13). -/
def Obligations.SequencerRefinesTxframe : Prop :=
  ∀ (A C : List Char8) (s : State), A.length ≤ 63 → C.length ≤ 63 → s.phase = .idle → s.pinSet = true →
    (∃ t, seqRun A C (s.repeatCount.toNat * (4 * (12 + A.length + C.length) + 2)) (seqStart s) = .next t ∧
      t = (if s.repeatCount = 0#16 then { s with trace := t.trace }
        else { txframe A C s with
          trace := t.trace
          rep := 0#16, scnt := 0#4, sub := .hiSet, gcnt := 0#24
          idx := BitVec.ofNat 6 (if C = [] then (if A = [] then s.idx.toNat else A.length) else C.length) }) ∧
      (¬ Safety.goneWrong t → t.trace = (txframe A C s).trace) ∧
      ∀ e : BitVec 5, seqRun A C (s.repeatCount.toNat * (4 * (12 + A.length + C.length) + 2)) (seqStart { s with err := e }) =
        .next { t with err := e }) ∧
    ∀ k, k < s.repeatCount.toNat * (4 * (12 + A.length + C.length) + 2) →
      ∃ t, seqRun A C k (seqStart s) = .next t ∧ t.phase ≠ .idle

/-- SEND, whole, on the machine's own steps (43_driver_facade.md section 5, R200): the host's word is taken and decoded, the three
checks are made in order, and when they pass the machine is busy until `322 * REPEAT` further steps are done, and is then idle with
LEVEL LOW and the configuration as it was. Of its trace, where the run has not gone wrong (60_exceptions.md R221, decision D13 of
the spec, log 13), it has emitted exactly the frames of `txframe` for ADDR and the code, 322 events and, at the default protocol, 127000 µs each; and its state is
then final when the host has no word left. That acceptance is one step and the frames the following steps is the model's choice
(log 8, DEDUCED); the number of steps rests on R158 and R145, which the spec derives. -/
def Obligations.SendRunsItsFramesToIdle : Prop :=
  ∀ (s : State) (c : Char8) (rest : List Word), s.phase = .idle → s.hostOps = (0x400000#24 ++ c) :: rest →
    (lkcmd c = none → step s = .next { s with hostOps := rest, err := s.err ||| 0b00001#5 }) ∧
    ∀ code : Vector Char8 26, lkcmd c = some code →
      (s.addrSet = false → step s = .next { s with hostOps := rest, err := s.err ||| 0b01000#5 }) ∧
      (s.addrSet = true → s.pinSet = false → step s = .next { s with hostOps := rest, err := s.err ||| 0b00100#5 }) ∧
      (s.addrSet = true → s.pinSet = true →
        (∃ t : State, stepRun (1 + 322 * s.repeatCount.toNat) s = .next t ∧
          t = (if s.repeatCount = 0#16 then { s with hostOps := rest, code := code, trace := t.trace }
            else { s with
              hostOps := rest, code := code, trace := t.trace
              level := some .low, hcnt := 0#24, lcnt := 0#24, gcnt := 0#24
              rep := 0#16, scnt := 0#4, idx := 26#6, sub := .hiSet }) ∧
          (¬ Safety.goneWrong t → t.trace =
            s.trace ++ txframeTrace s.protocol s.pin s.repeatCount.toNat s.addr.toList code.toList) ∧
          (Safety.finalState t ↔ rest = [] ∧ ¬ Safety.goneWrong s)) ∧
        ∀ k, k < 322 * s.repeatCount.toNat →
          ∃ t : State, stepRun (1 + k) s = .next t ∧ t.phase ≠ .idle) ∧
      (txframeTrace s.protocol s.pin s.repeatCount.toNat s.addr.toList code.toList).length = 322 * s.repeatCount.toNat ∧
      (s.protocol = ⟨400#16, ⟨1#8, 2#8⟩, ⟨2#8, 1#8⟩, ⟨1#8, 2#8⟩⟩ →
        duration (txframeTrace s.protocol s.pin s.repeatCount.toNat s.addr.toList code.toList) =
          127000 * s.repeatCount.toNat)

/-- The invariant of 10_state.md R47 (derived by the spec), with the counters, LEVEL and the strings, is kept by every step. -/
def Obligations.StepKeepsTheInvariant : Prop :=
  ∀ s t : State, Safety.Inv s → step s = .next t → Safety.Inv t

/-- The invariant holds after reset. -/
def Obligations.ResetMeetsTheInvariant : Prop :=
  Safety.Inv State.reset

/-- A machine that meets the invariant never stops, and a send in progress comes one step nearer to its end at every step: it
cannot fault, stall or be cancelled (R158, derived by the spec). -/
def Obligations.SendCountsDownToItsEnd : Prop :=
  ∀ s : State, Safety.Inv s → ∃ t, step s = .next t ∧
    (s.phase ≠ .idle → Safety.stepsLeft t + 1 = Safety.stepsLeft s) ∧ (t.phase = .idle ↔ Safety.stepsLeft t = 0)

/-! ### The tick level (41_bitstring_transmitter.md R157, 10_state.md R42, decisions D2 and D19 of the spec; log 16) -/

/-- A hold of `d` microseconds, under the machine's step or the sequencer's on any strings: `n` ticks into it, `n` below `d`, its
counter is `d - n` and nothing else has changed; the tick that brings the counter to 0 is the step of the hold, with all its
changes, and it emits `Delay(d)`, keeps the level and leaves the hold's counter 0 (GCNT unless the next gap has loaded it). A
`Delay(0)` takes no tick, and neither does a step that emits a PinLevel. That a mid-hold state keeps the ticks it has had, to emit
the whole delay, is the model's way (log 16). -/
def Obligations.HoldCountsDownByTicks : Prop :=
  ∀ (f : State → Host.Outcome State Fault Refusal) (s : State) (now : Nat), (f = step ∨ ∃ A C, f = seqStep A C) →
    (∀ d, holdCounter s = some d →
      (∀ n, n < d.toNat → tickRun f n ⟨s, 0#24, now⟩ =
        .next ⟨withHoldCounter (BitVec.ofNat 24 (d.toNat - n)) s, BitVec.ofNat 24 n, now + n⟩) ∧
      ∃ t, f s = .next t ∧ t.trace = s.trace ++ [.delay d] ∧ t.level = s.level ∧
        tickRun f (holdSteps d) ⟨s, 0#24, now⟩ = .next ⟨t, 0#24, now + d.toNat⟩ ∧
        ((s.phase = .gaps ∧ (t.phase = .gapr ∨ t.gcnt = 0#24)) ∨ (s.phase = .gapr ∧ t.gcnt = 0#24) ∨
          (s.phase ≠ .gaps ∧ s.phase ≠ .gapr ∧ ((s.sub = .hiHold ∧ t.hcnt = 0#24) ∨ (s.sub = .loHold ∧ t.lcnt = 0#24))))) ∧
    (∀ d x, holdCounter s = some d → withHoldCounter x s =
      if s.phase = .gaps ∨ s.phase = .gapr then { s with gcnt := x }
      else if s.sub = .hiHold then { s with hcnt := x } else { s with lcnt := x }) ∧
    (∀ t, s.phase ≠ .idle → holdCounter s = none → f s = .next t →
      tickRun f 1 ⟨s, 0#24, now⟩ = .next ⟨t, 0#24, now⟩ ∧ ∃ v, t.trace = s.trace ++ [.pinLevel s.pin v])

/-- The two parts of a pulse in ticks: from its start the pin is HIGH for exactly `PLEN * t.high` ticks, HCNT counting them down,
then LOW for exactly `PLEN * t.low` with LCNT, and then the pulse has ended as TXPULSE and the advance leave it. -/
def Obligations.PulsePartsLastTheirTicks : Prop :=
  ∀ (A C : List Char8) (s : State) (tm : PulseTiming) (now : Nat) (h l : Dur), curTiming A C s = some tm → s.sub = .hiSet →
    h.toNat = s.plen.toNat * tm.high.toNat → l.toNat = s.plen.toNat * tm.low.toNat →
    (∀ n, n < h.toNat → ∃ x, tickRun (seqStep A C) (1 + n) ⟨s, 0#24, now⟩ = .next x ∧ x.now = now + n ∧
      x.state.level = some .high ∧ x.state.hcnt.toNat = h.toNat - n ∧ x.state.trace = s.trace ++ [.pinLevel s.pin .high]) ∧
    (∀ n, n < l.toNat → ∃ x, tickRun (seqStep A C) (1 + holdSteps h + 1 + n) ⟨s, 0#24, now⟩ = .next x ∧
      x.now = now + h.toNat + n ∧ x.state.level = some .low ∧ x.state.hcnt = 0#24 ∧ x.state.lcnt.toNat = l.toNat - n ∧
      x.state.trace = s.trace ++ [.pinLevel s.pin .high, .delay h, .pinLevel s.pin .low]) ∧
    tickRun (seqStep A C) (1 + holdSteps h + 1 + holdSteps l) ⟨s, 0#24, now⟩ =
      .next ⟨advance A C (txpulse tm s), 0#24, now + h.toNat + l.toNat⟩

/-- The tick level refines the event level: whatever state `n` steps of the machine lead to, a run in ticks leads to it too. It takes
exactly as many microseconds as the Delays emitted on the way add up to, the operations of the host taking none, which is claimed
where the end has not gone wrong (60_exceptions.md R221, decision D13 of the spec, log 13). -/
def Obligations.TicksRefineTheSteps : Prop :=
  ∀ (n : Nat) (s t : State) (now : Nat), stepRun n s = .next t →
    ∃ m later, tickRun step m ⟨s, 0#24, now⟩ = .next ⟨t, 0#24, later⟩ ∧
      (¬ Safety.goneWrong t → ∃ evs, t.trace = s.trace ++ evs ∧ later = now + duration evs)

/-- What reset leaves (10_state.md section 6, 70_reset_and_hazards.md section 1; decisions D5 to D7 of the spec): the flags clear,
the protocol at its default, REPEAT at the open parameter, the counters 0, the level unknown, idle, no event. -/
def Obligations.ResetLeavesTheSpecifiedValues : Prop :=
  State.reset.pinSet = false ∧ State.reset.addrSet = false ∧ State.reset.err = 0#5 ∧ State.reset.level = none ∧
  State.reset.phase = .idle ∧ State.reset.trace = [] ∧ State.reset.repeatCount = Config.repeatReset ∧
  State.reset.protocol = ⟨400#16, ⟨1#8, 2#8⟩, ⟨2#8, 1#8⟩, ⟨1#8, 2#8⟩⟩ ∧
  State.reset.hcnt = 0#24 ∧ State.reset.lcnt = 0#24 ∧ State.reset.gcnt = 0#24
end

