-- ==== Sys2Proof/Laws/State.lean ====
section
/-! SUPPORT. What each named update of State leaves in each field, so that no proof unfolds a record update. -/

namespace Sys2Proof.Machine

@[simp] theorem emit_pin (e : Event) (s : State) : (emit e s).pin = s.pin := rfl
@[simp] theorem emit_pinSet (e : Event) (s : State) : (emit e s).pinSet = s.pinSet := rfl
@[simp] theorem emit_repeatCount (e : Event) (s : State) : (emit e s).repeatCount = s.repeatCount := rfl
@[simp] theorem emit_plen (e : Event) (s : State) : (emit e s).plen = s.plen := rfl
@[simp] theorem emit_syncH (e : Event) (s : State) : (emit e s).syncH = s.syncH := rfl
@[simp] theorem emit_syncL (e : Event) (s : State) : (emit e s).syncL = s.syncL := rfl
@[simp] theorem emit_zeroH (e : Event) (s : State) : (emit e s).zeroH = s.zeroH := rfl
@[simp] theorem emit_zeroL (e : Event) (s : State) : (emit e s).zeroL = s.zeroL := rfl
@[simp] theorem emit_oneH (e : Event) (s : State) : (emit e s).oneH = s.oneH := rfl
@[simp] theorem emit_oneL (e : Event) (s : State) : (emit e s).oneL = s.oneL := rfl
@[simp] theorem emit_addr (e : Event) (s : State) : (emit e s).addr = s.addr := rfl
@[simp] theorem emit_addrSet (e : Event) (s : State) : (emit e s).addrSet = s.addrSet := rfl
@[simp] theorem emit_code (e : Event) (s : State) : (emit e s).code = s.code := rfl
@[simp] theorem emit_err (e : Event) (s : State) : (emit e s).err = s.err := rfl
@[simp] theorem emit_level (e : Event) (s : State) : (emit e s).level = s.level := rfl
@[simp] theorem emit_trace (e : Event) (s : State) : (emit e s).trace = s.trace ++ [e] := rfl
@[simp] theorem emit_phase (e : Event) (s : State) : (emit e s).phase = s.phase := rfl
@[simp] theorem emit_rep (e : Event) (s : State) : (emit e s).rep = s.rep := rfl
@[simp] theorem emit_scnt (e : Event) (s : State) : (emit e s).scnt = s.scnt := rfl
@[simp] theorem emit_idx (e : Event) (s : State) : (emit e s).idx = s.idx := rfl
@[simp] theorem emit_sub (e : Event) (s : State) : (emit e s).sub = s.sub := rfl
@[simp] theorem emit_hcnt (e : Event) (s : State) : (emit e s).hcnt = s.hcnt := rfl
@[simp] theorem emit_lcnt (e : Event) (s : State) : (emit e s).lcnt = s.lcnt := rfl
@[simp] theorem emit_gcnt (e : Event) (s : State) : (emit e s).gcnt = s.gcnt := rfl
@[simp] theorem emit_hostOps (e : Event) (s : State) : (emit e s).hostOps = s.hostOps := rfl

@[simp] theorem drive_pin (v : Level) (s : State) : (drive v s).pin = s.pin := rfl
@[simp] theorem drive_pinSet (v : Level) (s : State) : (drive v s).pinSet = s.pinSet := rfl
@[simp] theorem drive_repeatCount (v : Level) (s : State) : (drive v s).repeatCount = s.repeatCount := rfl
@[simp] theorem drive_plen (v : Level) (s : State) : (drive v s).plen = s.plen := rfl
@[simp] theorem drive_syncH (v : Level) (s : State) : (drive v s).syncH = s.syncH := rfl
@[simp] theorem drive_syncL (v : Level) (s : State) : (drive v s).syncL = s.syncL := rfl
@[simp] theorem drive_zeroH (v : Level) (s : State) : (drive v s).zeroH = s.zeroH := rfl
@[simp] theorem drive_zeroL (v : Level) (s : State) : (drive v s).zeroL = s.zeroL := rfl
@[simp] theorem drive_oneH (v : Level) (s : State) : (drive v s).oneH = s.oneH := rfl
@[simp] theorem drive_oneL (v : Level) (s : State) : (drive v s).oneL = s.oneL := rfl
@[simp] theorem drive_addr (v : Level) (s : State) : (drive v s).addr = s.addr := rfl
@[simp] theorem drive_addrSet (v : Level) (s : State) : (drive v s).addrSet = s.addrSet := rfl
@[simp] theorem drive_code (v : Level) (s : State) : (drive v s).code = s.code := rfl
@[simp] theorem drive_err (v : Level) (s : State) : (drive v s).err = s.err := rfl
@[simp] theorem drive_level (v : Level) (s : State) : (drive v s).level = some v := rfl
@[simp] theorem drive_trace (v : Level) (s : State) : (drive v s).trace = s.trace ++ [.pinLevel s.pin v] := rfl
@[simp] theorem drive_phase (v : Level) (s : State) : (drive v s).phase = s.phase := rfl
@[simp] theorem drive_rep (v : Level) (s : State) : (drive v s).rep = s.rep := rfl
@[simp] theorem drive_scnt (v : Level) (s : State) : (drive v s).scnt = s.scnt := rfl
@[simp] theorem drive_idx (v : Level) (s : State) : (drive v s).idx = s.idx := rfl
@[simp] theorem drive_sub (v : Level) (s : State) : (drive v s).sub = s.sub := rfl
@[simp] theorem drive_hcnt (v : Level) (s : State) : (drive v s).hcnt = s.hcnt := rfl
@[simp] theorem drive_lcnt (v : Level) (s : State) : (drive v s).lcnt = s.lcnt := rfl
@[simp] theorem drive_gcnt (v : Level) (s : State) : (drive v s).gcnt = s.gcnt := rfl
@[simp] theorem drive_hostOps (v : Level) (s : State) : (drive v s).hostOps = s.hostOps := rfl

@[simp] theorem raise_pin (c : Cause) (s : State) : (raise c s).pin = s.pin := rfl
@[simp] theorem raise_pinSet (c : Cause) (s : State) : (raise c s).pinSet = s.pinSet := rfl
@[simp] theorem raise_repeatCount (c : Cause) (s : State) : (raise c s).repeatCount = s.repeatCount := rfl
@[simp] theorem raise_plen (c : Cause) (s : State) : (raise c s).plen = s.plen := rfl
@[simp] theorem raise_syncH (c : Cause) (s : State) : (raise c s).syncH = s.syncH := rfl
@[simp] theorem raise_syncL (c : Cause) (s : State) : (raise c s).syncL = s.syncL := rfl
@[simp] theorem raise_zeroH (c : Cause) (s : State) : (raise c s).zeroH = s.zeroH := rfl
@[simp] theorem raise_zeroL (c : Cause) (s : State) : (raise c s).zeroL = s.zeroL := rfl
@[simp] theorem raise_oneH (c : Cause) (s : State) : (raise c s).oneH = s.oneH := rfl
@[simp] theorem raise_oneL (c : Cause) (s : State) : (raise c s).oneL = s.oneL := rfl
@[simp] theorem raise_addr (c : Cause) (s : State) : (raise c s).addr = s.addr := rfl
@[simp] theorem raise_addrSet (c : Cause) (s : State) : (raise c s).addrSet = s.addrSet := rfl
@[simp] theorem raise_code (c : Cause) (s : State) : (raise c s).code = s.code := rfl
@[simp] theorem raise_err (c : Cause) (s : State) : (raise c s).err = s.err ||| c.mask := rfl
@[simp] theorem raise_level (c : Cause) (s : State) : (raise c s).level = s.level := rfl
@[simp] theorem raise_trace (c : Cause) (s : State) : (raise c s).trace = s.trace := rfl
@[simp] theorem raise_phase (c : Cause) (s : State) : (raise c s).phase = s.phase := rfl
@[simp] theorem raise_rep (c : Cause) (s : State) : (raise c s).rep = s.rep := rfl
@[simp] theorem raise_scnt (c : Cause) (s : State) : (raise c s).scnt = s.scnt := rfl
@[simp] theorem raise_idx (c : Cause) (s : State) : (raise c s).idx = s.idx := rfl
@[simp] theorem raise_sub (c : Cause) (s : State) : (raise c s).sub = s.sub := rfl
@[simp] theorem raise_hcnt (c : Cause) (s : State) : (raise c s).hcnt = s.hcnt := rfl
@[simp] theorem raise_lcnt (c : Cause) (s : State) : (raise c s).lcnt = s.lcnt := rfl
@[simp] theorem raise_gcnt (c : Cause) (s : State) : (raise c s).gcnt = s.gcnt := rfl
@[simp] theorem raise_hostOps (c : Cause) (s : State) : (raise c s).hostOps = s.hostOps := rfl

@[simp] theorem pulseHiSet_pin (t : PulseTiming) (s : State) : (pulseHiSet t s).pin = s.pin := rfl
@[simp] theorem pulseHiSet_pinSet (t : PulseTiming) (s : State) : (pulseHiSet t s).pinSet = s.pinSet := rfl
@[simp] theorem pulseHiSet_repeatCount (t : PulseTiming) (s : State) : (pulseHiSet t s).repeatCount = s.repeatCount := rfl
@[simp] theorem pulseHiSet_plen (t : PulseTiming) (s : State) : (pulseHiSet t s).plen = s.plen := rfl
@[simp] theorem pulseHiSet_syncH (t : PulseTiming) (s : State) : (pulseHiSet t s).syncH = s.syncH := rfl
@[simp] theorem pulseHiSet_syncL (t : PulseTiming) (s : State) : (pulseHiSet t s).syncL = s.syncL := rfl
@[simp] theorem pulseHiSet_zeroH (t : PulseTiming) (s : State) : (pulseHiSet t s).zeroH = s.zeroH := rfl
@[simp] theorem pulseHiSet_zeroL (t : PulseTiming) (s : State) : (pulseHiSet t s).zeroL = s.zeroL := rfl
@[simp] theorem pulseHiSet_oneH (t : PulseTiming) (s : State) : (pulseHiSet t s).oneH = s.oneH := rfl
@[simp] theorem pulseHiSet_oneL (t : PulseTiming) (s : State) : (pulseHiSet t s).oneL = s.oneL := rfl
@[simp] theorem pulseHiSet_addr (t : PulseTiming) (s : State) : (pulseHiSet t s).addr = s.addr := rfl
@[simp] theorem pulseHiSet_addrSet (t : PulseTiming) (s : State) : (pulseHiSet t s).addrSet = s.addrSet := rfl
@[simp] theorem pulseHiSet_code (t : PulseTiming) (s : State) : (pulseHiSet t s).code = s.code := rfl
@[simp] theorem pulseHiSet_err (t : PulseTiming) (s : State) : (pulseHiSet t s).err = s.err := rfl
@[simp] theorem pulseHiSet_level (t : PulseTiming) (s : State) : (pulseHiSet t s).level = some .high := rfl
@[simp] theorem pulseHiSet_trace (t : PulseTiming) (s : State) : (pulseHiSet t s).trace = s.trace ++ [.pinLevel s.pin .high] := rfl
@[simp] theorem pulseHiSet_phase (t : PulseTiming) (s : State) : (pulseHiSet t s).phase = s.phase := rfl
@[simp] theorem pulseHiSet_rep (t : PulseTiming) (s : State) : (pulseHiSet t s).rep = s.rep := rfl
@[simp] theorem pulseHiSet_scnt (t : PulseTiming) (s : State) : (pulseHiSet t s).scnt = s.scnt := rfl
@[simp] theorem pulseHiSet_idx (t : PulseTiming) (s : State) : (pulseHiSet t s).idx = s.idx := rfl
@[simp] theorem pulseHiSet_sub (t : PulseTiming) (s : State) : (pulseHiSet t s).sub = s.sub := rfl
@[simp] theorem pulseHiSet_hcnt (t : PulseTiming) (s : State) : (pulseHiSet t s).hcnt = pulseDur s.plen t.high := rfl
@[simp] theorem pulseHiSet_lcnt (t : PulseTiming) (s : State) : (pulseHiSet t s).lcnt = pulseDur s.plen t.low := rfl
@[simp] theorem pulseHiSet_gcnt (t : PulseTiming) (s : State) : (pulseHiSet t s).gcnt = s.gcnt := rfl
@[simp] theorem pulseHiSet_hostOps (t : PulseTiming) (s : State) : (pulseHiSet t s).hostOps = s.hostOps := rfl

@[simp] theorem pulseHiHold_pin (s : State) : (pulseHiHold s).pin = s.pin := rfl
@[simp] theorem pulseHiHold_pinSet (s : State) : (pulseHiHold s).pinSet = s.pinSet := rfl
@[simp] theorem pulseHiHold_repeatCount (s : State) : (pulseHiHold s).repeatCount = s.repeatCount := rfl
@[simp] theorem pulseHiHold_plen (s : State) : (pulseHiHold s).plen = s.plen := rfl
@[simp] theorem pulseHiHold_syncH (s : State) : (pulseHiHold s).syncH = s.syncH := rfl
@[simp] theorem pulseHiHold_syncL (s : State) : (pulseHiHold s).syncL = s.syncL := rfl
@[simp] theorem pulseHiHold_zeroH (s : State) : (pulseHiHold s).zeroH = s.zeroH := rfl
@[simp] theorem pulseHiHold_zeroL (s : State) : (pulseHiHold s).zeroL = s.zeroL := rfl
@[simp] theorem pulseHiHold_oneH (s : State) : (pulseHiHold s).oneH = s.oneH := rfl
@[simp] theorem pulseHiHold_oneL (s : State) : (pulseHiHold s).oneL = s.oneL := rfl
@[simp] theorem pulseHiHold_addr (s : State) : (pulseHiHold s).addr = s.addr := rfl
@[simp] theorem pulseHiHold_addrSet (s : State) : (pulseHiHold s).addrSet = s.addrSet := rfl
@[simp] theorem pulseHiHold_code (s : State) : (pulseHiHold s).code = s.code := rfl
@[simp] theorem pulseHiHold_err (s : State) : (pulseHiHold s).err = s.err := rfl
@[simp] theorem pulseHiHold_level (s : State) : (pulseHiHold s).level = s.level := rfl
@[simp] theorem pulseHiHold_trace (s : State) : (pulseHiHold s).trace = s.trace ++ [.delay s.hcnt] := rfl
@[simp] theorem pulseHiHold_phase (s : State) : (pulseHiHold s).phase = s.phase := rfl
@[simp] theorem pulseHiHold_rep (s : State) : (pulseHiHold s).rep = s.rep := rfl
@[simp] theorem pulseHiHold_scnt (s : State) : (pulseHiHold s).scnt = s.scnt := rfl
@[simp] theorem pulseHiHold_idx (s : State) : (pulseHiHold s).idx = s.idx := rfl
@[simp] theorem pulseHiHold_sub (s : State) : (pulseHiHold s).sub = s.sub := rfl
@[simp] theorem pulseHiHold_hcnt (s : State) : (pulseHiHold s).hcnt = 0#24 := rfl
@[simp] theorem pulseHiHold_lcnt (s : State) : (pulseHiHold s).lcnt = s.lcnt := rfl
@[simp] theorem pulseHiHold_gcnt (s : State) : (pulseHiHold s).gcnt = s.gcnt := rfl
@[simp] theorem pulseHiHold_hostOps (s : State) : (pulseHiHold s).hostOps = s.hostOps := rfl

@[simp] theorem pulseLoSet_pin (s : State) : (pulseLoSet s).pin = s.pin := rfl
@[simp] theorem pulseLoSet_pinSet (s : State) : (pulseLoSet s).pinSet = s.pinSet := rfl
@[simp] theorem pulseLoSet_repeatCount (s : State) : (pulseLoSet s).repeatCount = s.repeatCount := rfl
@[simp] theorem pulseLoSet_plen (s : State) : (pulseLoSet s).plen = s.plen := rfl
@[simp] theorem pulseLoSet_syncH (s : State) : (pulseLoSet s).syncH = s.syncH := rfl
@[simp] theorem pulseLoSet_syncL (s : State) : (pulseLoSet s).syncL = s.syncL := rfl
@[simp] theorem pulseLoSet_zeroH (s : State) : (pulseLoSet s).zeroH = s.zeroH := rfl
@[simp] theorem pulseLoSet_zeroL (s : State) : (pulseLoSet s).zeroL = s.zeroL := rfl
@[simp] theorem pulseLoSet_oneH (s : State) : (pulseLoSet s).oneH = s.oneH := rfl
@[simp] theorem pulseLoSet_oneL (s : State) : (pulseLoSet s).oneL = s.oneL := rfl
@[simp] theorem pulseLoSet_addr (s : State) : (pulseLoSet s).addr = s.addr := rfl
@[simp] theorem pulseLoSet_addrSet (s : State) : (pulseLoSet s).addrSet = s.addrSet := rfl
@[simp] theorem pulseLoSet_code (s : State) : (pulseLoSet s).code = s.code := rfl
@[simp] theorem pulseLoSet_err (s : State) : (pulseLoSet s).err = s.err := rfl
@[simp] theorem pulseLoSet_level (s : State) : (pulseLoSet s).level = some .low := rfl
@[simp] theorem pulseLoSet_trace (s : State) : (pulseLoSet s).trace = s.trace ++ [.pinLevel s.pin .low] := rfl
@[simp] theorem pulseLoSet_phase (s : State) : (pulseLoSet s).phase = s.phase := rfl
@[simp] theorem pulseLoSet_rep (s : State) : (pulseLoSet s).rep = s.rep := rfl
@[simp] theorem pulseLoSet_scnt (s : State) : (pulseLoSet s).scnt = s.scnt := rfl
@[simp] theorem pulseLoSet_idx (s : State) : (pulseLoSet s).idx = s.idx := rfl
@[simp] theorem pulseLoSet_sub (s : State) : (pulseLoSet s).sub = s.sub := rfl
@[simp] theorem pulseLoSet_hcnt (s : State) : (pulseLoSet s).hcnt = s.hcnt := rfl
@[simp] theorem pulseLoSet_lcnt (s : State) : (pulseLoSet s).lcnt = s.lcnt := rfl
@[simp] theorem pulseLoSet_gcnt (s : State) : (pulseLoSet s).gcnt = s.gcnt := rfl
@[simp] theorem pulseLoSet_hostOps (s : State) : (pulseLoSet s).hostOps = s.hostOps := rfl

@[simp] theorem pulseLoHold_pin (s : State) : (pulseLoHold s).pin = s.pin := rfl
@[simp] theorem pulseLoHold_pinSet (s : State) : (pulseLoHold s).pinSet = s.pinSet := rfl
@[simp] theorem pulseLoHold_repeatCount (s : State) : (pulseLoHold s).repeatCount = s.repeatCount := rfl
@[simp] theorem pulseLoHold_plen (s : State) : (pulseLoHold s).plen = s.plen := rfl
@[simp] theorem pulseLoHold_syncH (s : State) : (pulseLoHold s).syncH = s.syncH := rfl
@[simp] theorem pulseLoHold_syncL (s : State) : (pulseLoHold s).syncL = s.syncL := rfl
@[simp] theorem pulseLoHold_zeroH (s : State) : (pulseLoHold s).zeroH = s.zeroH := rfl
@[simp] theorem pulseLoHold_zeroL (s : State) : (pulseLoHold s).zeroL = s.zeroL := rfl
@[simp] theorem pulseLoHold_oneH (s : State) : (pulseLoHold s).oneH = s.oneH := rfl
@[simp] theorem pulseLoHold_oneL (s : State) : (pulseLoHold s).oneL = s.oneL := rfl
@[simp] theorem pulseLoHold_addr (s : State) : (pulseLoHold s).addr = s.addr := rfl
@[simp] theorem pulseLoHold_addrSet (s : State) : (pulseLoHold s).addrSet = s.addrSet := rfl
@[simp] theorem pulseLoHold_code (s : State) : (pulseLoHold s).code = s.code := rfl
@[simp] theorem pulseLoHold_err (s : State) : (pulseLoHold s).err = s.err := rfl
@[simp] theorem pulseLoHold_level (s : State) : (pulseLoHold s).level = s.level := rfl
@[simp] theorem pulseLoHold_trace (s : State) : (pulseLoHold s).trace = s.trace ++ [.delay s.lcnt] := rfl
@[simp] theorem pulseLoHold_phase (s : State) : (pulseLoHold s).phase = s.phase := rfl
@[simp] theorem pulseLoHold_rep (s : State) : (pulseLoHold s).rep = s.rep := rfl
@[simp] theorem pulseLoHold_scnt (s : State) : (pulseLoHold s).scnt = s.scnt := rfl
@[simp] theorem pulseLoHold_idx (s : State) : (pulseLoHold s).idx = s.idx := rfl
@[simp] theorem pulseLoHold_sub (s : State) : (pulseLoHold s).sub = s.sub := rfl
@[simp] theorem pulseLoHold_hcnt (s : State) : (pulseLoHold s).hcnt = s.hcnt := rfl
@[simp] theorem pulseLoHold_lcnt (s : State) : (pulseLoHold s).lcnt = 0#24 := rfl
@[simp] theorem pulseLoHold_gcnt (s : State) : (pulseLoHold s).gcnt = s.gcnt := rfl
@[simp] theorem pulseLoHold_hostOps (s : State) : (pulseLoHold s).hostOps = s.hostOps := rfl

@[simp] theorem setProtocol_pin (p : Half) (a z o : PulseTiming) (s : State) : (setProtocol p a z o s).pin = s.pin := rfl
@[simp] theorem setProtocol_pinSet (p : Half) (a z o : PulseTiming) (s : State) : (setProtocol p a z o s).pinSet = s.pinSet := rfl
@[simp] theorem setProtocol_repeatCount (p : Half) (a z o : PulseTiming) (s : State) : (setProtocol p a z o s).repeatCount = s.repeatCount := rfl
@[simp] theorem setProtocol_plen (p : Half) (a z o : PulseTiming) (s : State) : (setProtocol p a z o s).plen = p := rfl
@[simp] theorem setProtocol_syncH (p : Half) (a z o : PulseTiming) (s : State) : (setProtocol p a z o s).syncH = a.high := rfl
@[simp] theorem setProtocol_syncL (p : Half) (a z o : PulseTiming) (s : State) : (setProtocol p a z o s).syncL = a.low := rfl
@[simp] theorem setProtocol_zeroH (p : Half) (a z o : PulseTiming) (s : State) : (setProtocol p a z o s).zeroH = z.high := rfl
@[simp] theorem setProtocol_zeroL (p : Half) (a z o : PulseTiming) (s : State) : (setProtocol p a z o s).zeroL = z.low := rfl
@[simp] theorem setProtocol_oneH (p : Half) (a z o : PulseTiming) (s : State) : (setProtocol p a z o s).oneH = o.high := rfl
@[simp] theorem setProtocol_oneL (p : Half) (a z o : PulseTiming) (s : State) : (setProtocol p a z o s).oneL = o.low := rfl
@[simp] theorem setProtocol_addr (p : Half) (a z o : PulseTiming) (s : State) : (setProtocol p a z o s).addr = s.addr := rfl
@[simp] theorem setProtocol_addrSet (p : Half) (a z o : PulseTiming) (s : State) : (setProtocol p a z o s).addrSet = s.addrSet := rfl
@[simp] theorem setProtocol_code (p : Half) (a z o : PulseTiming) (s : State) : (setProtocol p a z o s).code = s.code := rfl
@[simp] theorem setProtocol_err (p : Half) (a z o : PulseTiming) (s : State) : (setProtocol p a z o s).err = s.err := rfl
@[simp] theorem setProtocol_level (p : Half) (a z o : PulseTiming) (s : State) : (setProtocol p a z o s).level = s.level := rfl
@[simp] theorem setProtocol_trace (p : Half) (a z o : PulseTiming) (s : State) : (setProtocol p a z o s).trace = s.trace := rfl
@[simp] theorem setProtocol_phase (p : Half) (a z o : PulseTiming) (s : State) : (setProtocol p a z o s).phase = s.phase := rfl
@[simp] theorem setProtocol_rep (p : Half) (a z o : PulseTiming) (s : State) : (setProtocol p a z o s).rep = s.rep := rfl
@[simp] theorem setProtocol_scnt (p : Half) (a z o : PulseTiming) (s : State) : (setProtocol p a z o s).scnt = s.scnt := rfl
@[simp] theorem setProtocol_idx (p : Half) (a z o : PulseTiming) (s : State) : (setProtocol p a z o s).idx = s.idx := rfl
@[simp] theorem setProtocol_sub (p : Half) (a z o : PulseTiming) (s : State) : (setProtocol p a z o s).sub = s.sub := rfl
@[simp] theorem setProtocol_hcnt (p : Half) (a z o : PulseTiming) (s : State) : (setProtocol p a z o s).hcnt = s.hcnt := rfl
@[simp] theorem setProtocol_lcnt (p : Half) (a z o : PulseTiming) (s : State) : (setProtocol p a z o s).lcnt = s.lcnt := rfl
@[simp] theorem setProtocol_gcnt (p : Half) (a z o : PulseTiming) (s : State) : (setProtocol p a z o s).gcnt = s.gcnt := rfl
@[simp] theorem setProtocol_hostOps (p : Half) (a z o : PulseTiming) (s : State) : (setProtocol p a z o s).hostOps = s.hostOps := rfl

@[simp] theorem gapHold_pin (s : State) : (gapHold s).pin = s.pin := rfl
@[simp] theorem gapHold_pinSet (s : State) : (gapHold s).pinSet = s.pinSet := rfl
@[simp] theorem gapHold_repeatCount (s : State) : (gapHold s).repeatCount = s.repeatCount := rfl
@[simp] theorem gapHold_plen (s : State) : (gapHold s).plen = s.plen := rfl
@[simp] theorem gapHold_syncH (s : State) : (gapHold s).syncH = s.syncH := rfl
@[simp] theorem gapHold_syncL (s : State) : (gapHold s).syncL = s.syncL := rfl
@[simp] theorem gapHold_zeroH (s : State) : (gapHold s).zeroH = s.zeroH := rfl
@[simp] theorem gapHold_zeroL (s : State) : (gapHold s).zeroL = s.zeroL := rfl
@[simp] theorem gapHold_oneH (s : State) : (gapHold s).oneH = s.oneH := rfl
@[simp] theorem gapHold_oneL (s : State) : (gapHold s).oneL = s.oneL := rfl
@[simp] theorem gapHold_addr (s : State) : (gapHold s).addr = s.addr := rfl
@[simp] theorem gapHold_addrSet (s : State) : (gapHold s).addrSet = s.addrSet := rfl
@[simp] theorem gapHold_code (s : State) : (gapHold s).code = s.code := rfl
@[simp] theorem gapHold_err (s : State) : (gapHold s).err = s.err := rfl
@[simp] theorem gapHold_level (s : State) : (gapHold s).level = s.level := rfl
@[simp] theorem gapHold_trace (s : State) : (gapHold s).trace = s.trace ++ [.delay s.gcnt] := rfl
@[simp] theorem gapHold_phase (s : State) : (gapHold s).phase = s.phase := rfl
@[simp] theorem gapHold_rep (s : State) : (gapHold s).rep = s.rep := rfl
@[simp] theorem gapHold_scnt (s : State) : (gapHold s).scnt = s.scnt := rfl
@[simp] theorem gapHold_idx (s : State) : (gapHold s).idx = s.idx := rfl
@[simp] theorem gapHold_sub (s : State) : (gapHold s).sub = s.sub := rfl
@[simp] theorem gapHold_hcnt (s : State) : (gapHold s).hcnt = s.hcnt := rfl
@[simp] theorem gapHold_lcnt (s : State) : (gapHold s).lcnt = s.lcnt := rfl
@[simp] theorem gapHold_gcnt (s : State) : (gapHold s).gcnt = 0#24 := rfl
@[simp] theorem gapHold_hostOps (s : State) : (gapHold s).hostOps = s.hostOps := rfl

@[simp] theorem beginRepeat_pin (s : State) : (beginRepeat s).pin = s.pin := rfl
@[simp] theorem beginRepeat_pinSet (s : State) : (beginRepeat s).pinSet = s.pinSet := rfl
@[simp] theorem beginRepeat_repeatCount (s : State) : (beginRepeat s).repeatCount = s.repeatCount := rfl
@[simp] theorem beginRepeat_plen (s : State) : (beginRepeat s).plen = s.plen := rfl
@[simp] theorem beginRepeat_syncH (s : State) : (beginRepeat s).syncH = s.syncH := rfl
@[simp] theorem beginRepeat_syncL (s : State) : (beginRepeat s).syncL = s.syncL := rfl
@[simp] theorem beginRepeat_zeroH (s : State) : (beginRepeat s).zeroH = s.zeroH := rfl
@[simp] theorem beginRepeat_zeroL (s : State) : (beginRepeat s).zeroL = s.zeroL := rfl
@[simp] theorem beginRepeat_oneH (s : State) : (beginRepeat s).oneH = s.oneH := rfl
@[simp] theorem beginRepeat_oneL (s : State) : (beginRepeat s).oneL = s.oneL := rfl
@[simp] theorem beginRepeat_addr (s : State) : (beginRepeat s).addr = s.addr := rfl
@[simp] theorem beginRepeat_addrSet (s : State) : (beginRepeat s).addrSet = s.addrSet := rfl
@[simp] theorem beginRepeat_code (s : State) : (beginRepeat s).code = s.code := rfl
@[simp] theorem beginRepeat_err (s : State) : (beginRepeat s).err = s.err := rfl
@[simp] theorem beginRepeat_level (s : State) : (beginRepeat s).level = s.level := rfl
@[simp] theorem beginRepeat_trace (s : State) : (beginRepeat s).trace = s.trace := rfl
@[simp] theorem beginRepeat_phase (s : State) : (beginRepeat s).phase = .sync := rfl
@[simp] theorem beginRepeat_rep (s : State) : (beginRepeat s).rep = s.rep := rfl
@[simp] theorem beginRepeat_scnt (s : State) : (beginRepeat s).scnt = 12#4 := rfl
@[simp] theorem beginRepeat_idx (s : State) : (beginRepeat s).idx = s.idx := rfl
@[simp] theorem beginRepeat_sub (s : State) : (beginRepeat s).sub = .hiSet := rfl
@[simp] theorem beginRepeat_hcnt (s : State) : (beginRepeat s).hcnt = s.hcnt := rfl
@[simp] theorem beginRepeat_lcnt (s : State) : (beginRepeat s).lcnt = s.lcnt := rfl
@[simp] theorem beginRepeat_gcnt (s : State) : (beginRepeat s).gcnt = s.gcnt := rfl
@[simp] theorem beginRepeat_hostOps (s : State) : (beginRepeat s).hostOps = s.hostOps := rfl

@[simp] theorem enterGapr_pin (s : State) : (enterGapr s).pin = s.pin := rfl
@[simp] theorem enterGapr_pinSet (s : State) : (enterGapr s).pinSet = s.pinSet := rfl
@[simp] theorem enterGapr_repeatCount (s : State) : (enterGapr s).repeatCount = s.repeatCount := rfl
@[simp] theorem enterGapr_plen (s : State) : (enterGapr s).plen = s.plen := rfl
@[simp] theorem enterGapr_syncH (s : State) : (enterGapr s).syncH = s.syncH := rfl
@[simp] theorem enterGapr_syncL (s : State) : (enterGapr s).syncL = s.syncL := rfl
@[simp] theorem enterGapr_zeroH (s : State) : (enterGapr s).zeroH = s.zeroH := rfl
@[simp] theorem enterGapr_zeroL (s : State) : (enterGapr s).zeroL = s.zeroL := rfl
@[simp] theorem enterGapr_oneH (s : State) : (enterGapr s).oneH = s.oneH := rfl
@[simp] theorem enterGapr_oneL (s : State) : (enterGapr s).oneL = s.oneL := rfl
@[simp] theorem enterGapr_addr (s : State) : (enterGapr s).addr = s.addr := rfl
@[simp] theorem enterGapr_addrSet (s : State) : (enterGapr s).addrSet = s.addrSet := rfl
@[simp] theorem enterGapr_code (s : State) : (enterGapr s).code = s.code := rfl
@[simp] theorem enterGapr_err (s : State) : (enterGapr s).err = s.err := rfl
@[simp] theorem enterGapr_level (s : State) : (enterGapr s).level = s.level := rfl
@[simp] theorem enterGapr_trace (s : State) : (enterGapr s).trace = s.trace := rfl
@[simp] theorem enterGapr_phase (s : State) : (enterGapr s).phase = .gapr := rfl
@[simp] theorem enterGapr_rep (s : State) : (enterGapr s).rep = s.rep := rfl
@[simp] theorem enterGapr_scnt (s : State) : (enterGapr s).scnt = s.scnt := rfl
@[simp] theorem enterGapr_idx (s : State) : (enterGapr s).idx = s.idx := rfl
@[simp] theorem enterGapr_sub (s : State) : (enterGapr s).sub = s.sub := rfl
@[simp] theorem enterGapr_hcnt (s : State) : (enterGapr s).hcnt = s.hcnt := rfl
@[simp] theorem enterGapr_lcnt (s : State) : (enterGapr s).lcnt = s.lcnt := rfl
@[simp] theorem enterGapr_gcnt (s : State) : (enterGapr s).gcnt = 26000#24 := rfl
@[simp] theorem enterGapr_hostOps (s : State) : (enterGapr s).hostOps = s.hostOps := rfl

end Sys2Proof.Machine
end

