-- ==== Sys2Proof/Laws/Ops.lean ====
section
/-! SUPPORT. What each shared operation does, said once: a pulse, a fault, the lookups, the start of a send. -/

namespace Sys2Proof.Machine

/-- A pulse is one update: its four events, LEVEL LOW, and HCNT and LCNT spent. -/
theorem txpulse_eq (t : PulseTiming) (s : State) : txpulse t s = { s with
    hcnt := 0#24, lcnt := 0#24, level := some .low
    trace := s.trace ++ pulseEvents s.protocol s.pin t } := by
  simp [txpulse, pulseHiSet, pulseHiHold, pulseLoSet, pulseLoHold, drive, emit, pulseEvents, State.protocol]

/-- A fault is one update of ERR. -/
theorem raise_eq (c : Cause) (s : State) : raise c s = { s with err := s.err ||| c.mask } := rfl

theorem curTiming_sync (A C : List Char8) (s : State) (h : s.phase = .sync) : curTiming A C s = some s.syncTiming := by
  simp [curTiming, h]

theorem curTiming_addr (A C : List Char8) (s : State) (h : s.phase = .addr) :
    curTiming A C s = s.symbolTiming A s.idx := by
  simp [curTiming, h]

theorem curTiming_cmd (A C : List Char8) (s : State) (h : s.phase = .cmd) :
    curTiming A C s = s.symbolTiming C s.idx := by
  simp [curTiming, h]

/-- A character has the one timing or the zero timing, by the same test as the pure function of a frame. -/
theorem instrTiming_decodeSymbol (s : State) (ch : Char8) :
    s.instrTiming (decodeSymbol ch) = some (s.protocol.timing ch) := by
  unfold decodeSymbol Protocol.timing
  split <;> rfl

/-- The symbol at an index of the string has its character's timing. -/
theorem symbolTiming_some (s : State) (str : List Char8) (i : BitVec 6) (ch : Char8) (h : str[i.toNat]? = some ch) :
    s.symbolTiming str i = some (s.protocol.timing ch) := by
  simp [State.symbolTiming, h, instrTiming_decodeSymbol]

/-- The sequencer has a timing for every index of the string, and for no other. -/
theorem symbolTiming_isSome (s : State) (str : List Char8) (i : BitVec 6) :
    (s.symbolTiming str i).isSome = decide (i.toNat < str.length) := by
  unfold State.symbolTiming
  by_cases h : i.toNat < str.length
  · simp [h, instrTiming_decodeSymbol]
  · simp [h]

/-- A successful address lookup gives the catalog entry at the index. -/
theorem lkaddr_some (i : Half) (a : Vector Char8 42) (h : lkaddr i = some a) :
    ∃ k : Fin 3, k.val = i.toNat ∧ a = addrRom k := by
  unfold lkaddr at h
  split at h
  · rename_i hlt
    exact ⟨⟨i.toNat, hlt⟩, rfl, (Option.some.inj h).symm⟩
  · cases h

/-- A successful command lookup gives a code of the catalog. -/
theorem lkcmd_some (c : Char8) (code : Vector Char8 26) (h : lkcmd c = some code) : ∃ k, code = cmdCode k := by
  unfold lkcmd at h
  obtain ⟨k, -, rfl⟩ := Option.map_eq_some_iff.mp h
  exact ⟨k, rfl⟩

/-- The start of a send with a pin: nothing with REPEAT 0, else the first repeat. -/
theorem seqStart_pin (s : State) (h : s.pinSet = true) :
    seqStart s = if s.repeatCount = 0#16 then s
      else { s with rep := s.repeatCount, phase := .sync, scnt := 12#4, sub := .hiSet } := by
  simp [seqStart, h, beginRepeat, nSync]

end Sys2Proof.Machine
end

