-- ==== Sys2Proof/Laws/Sequencer.lean ====
section
/-! SUPPORT. What a step of the sequencer can do, said once: which fields a change of section writes, the step by sub-step, its
frame, and runs of it. -/

namespace Sys2Proof.Machine

/-- Entering a section writes PHASE, IDX, SUB and GCNT. -/
theorem enterCmd_frame (C : List Char8) (s : State) : ∃ ph i sb g,
    enterCmd C s = { s with phase := ph, idx := i, sub := sb, gcnt := g } ∧ ph ≠ .idle := by
  unfold enterCmd enterGapr
  split_ifs
  · exact ⟨.gapr, s.idx, s.sub, _, rfl, by decide⟩
  · exact ⟨.cmd, _, _, s.gcnt, rfl, by decide⟩

/-- Entering a section writes PHASE, IDX, SUB and GCNT. -/
theorem enterAddr_frame (A C : List Char8) (s : State) : ∃ ph i sb g,
    enterAddr A C s = { s with phase := ph, idx := i, sub := sb, gcnt := g } ∧ ph ≠ .idle := by
  unfold enterAddr
  split_ifs
  · exact enterCmd_frame C s
  · exact ⟨.addr, _, _, s.gcnt, rfl, by decide⟩

/-- Outside the pulse phases the advance does nothing. -/
theorem advance_rest (A C : List Char8) (s : State) (h : s.phase = .idle ∨ s.phase = .gaps ∨ s.phase = .gapr) :
    advance A C s = s := by
  obtain h | h | h := h <;> simp [advance, h]

/-- The end of a pulse writes PHASE, SCNT, IDX, SUB and GCNT. -/
theorem advance_frame (A C : List Char8) (s : State) : ∃ ph n i sb g,
    advance A C s = { s with phase := ph, scnt := n, idx := i, sub := sb, gcnt := g } ∧ (s.phase ≠ .idle → ph ≠ .idle) := by
  obtain hp | hp | hp | hp | hp | hp : s.phase = .idle ∨ s.phase = .sync ∨ s.phase = .gaps ∨ s.phase = .addr ∨
      s.phase = .cmd ∨ s.phase = .gapr := by cases s.phase <;> simp
  · exact ⟨s.phase, s.scnt, s.idx, s.sub, s.gcnt, advance_rest A C s (by simp [hp]), id⟩
  · have e : advance A C s = advanceSync s := by simp [advance, hp]
    rw [e, advanceSync]
    split_ifs
    · exact ⟨.gaps, _, s.idx, s.sub, _, rfl, by simp⟩
    · exact ⟨s.phase, _, s.idx, s.sub, s.gcnt, rfl, id⟩
  · exact ⟨s.phase, s.scnt, s.idx, s.sub, s.gcnt, advance_rest A C s (by simp [hp]), id⟩
  · have e : advance A C s = advanceAddr A C s := by simp [advance, hp]
    rw [e, advanceAddr]
    split_ifs
    · obtain ⟨ph, i, sb, g, h, hph⟩ := enterCmd_frame C { s with idx := s.idx + 1#6 }
      exact ⟨ph, s.scnt, i, sb, g, h, fun _ => hph⟩
    · exact ⟨s.phase, s.scnt, _, s.sub, s.gcnt, rfl, id⟩
  · have e : advance A C s = advanceCmd C s := by simp [advance, hp]
    rw [e, advanceCmd]
    split_ifs
    · exact ⟨.gapr, s.scnt, _, s.sub, _, rfl, by simp⟩
    · exact ⟨s.phase, s.scnt, _, s.sub, s.gcnt, rfl, id⟩
  · exact ⟨s.phase, s.scnt, s.idx, s.sub, s.gcnt, advance_rest A C s (by simp [hp]), id⟩

/-- The end of a repeat writes PHASE, REP, SCNT and SUB. -/
theorem endRepeat_frame (s : State) : ∃ ph r n sb,
    endRepeat s = { s with phase := ph, rep := r, scnt := n, sub := sb } := by
  unfold endRepeat beginRepeat
  split_ifs
  · exact ⟨.idle, _, s.scnt, s.sub, rfl⟩
  · exact ⟨.sync, _, _, _, rfl⟩

/-! The changes of section and of repeat, one lemma a case. -/

theorem enterCmd_nil (s : State) : enterCmd [] s = { s with phase := .gapr, gcnt := 26000#24 } := rfl

theorem enterCmd_cons (C : List Char8) (h : C ≠ []) (s : State) :
    enterCmd C s = { s with phase := .cmd, idx := 0#6, sub := .hiSet } := by
  unfold enterCmd
  exact if_neg fun h0 => h (List.length_eq_zero_iff.mp h0)

theorem enterAddr_nil (C : List Char8) (s : State) : enterAddr [] C s = enterCmd C s := rfl

theorem enterAddr_cons (A C : List Char8) (h : A ≠ []) (s : State) :
    enterAddr A C s = { s with phase := .addr, idx := 0#6, sub := .hiSet } := by
  unfold enterAddr
  exact if_neg fun h0 => h (List.length_eq_zero_iff.mp h0)

/-- The last sync pulse ends in the 5000 µs gap. -/
theorem advance_sync_last (A C : List Char8) (s : State) (hp : s.phase = .sync) (h : s.scnt = 1#4) :
    advance A C s = { s with scnt := 0#4, phase := .gaps, gcnt := 5000#24 } := by
  simp [advance, hp, advanceSync, h, gapSection]

theorem advance_sync_more (A C : List Char8) (s : State) (hp : s.phase = .sync) (h : s.scnt ≠ 1#4) :
    advance A C s = { s with scnt := s.scnt - 1#4 } := by
  have h0 : ¬ s.scnt - 1#4 = 0#4 := fun e => h (by bv_omega)
  simp only [advance, hp, advanceSync, if_neg h0]

/-- The last address pulse enters the command section, with IDX past the string. -/
theorem advance_addr_last (A C : List Char8) (s : State) (hp : s.phase = .addr) (h : (s.idx + 1#6).toNat = A.length) :
    advance A C s = enterCmd C { s with idx := s.idx + 1#6 } := by
  simp only [advance, hp, advanceAddr, if_pos h]

theorem advance_addr_more (A C : List Char8) (s : State) (hp : s.phase = .addr) (h : (s.idx + 1#6).toNat ≠ A.length) :
    advance A C s = { s with idx := s.idx + 1#6 } := by
  simp only [advance, hp, advanceAddr, if_neg h]

/-- The last command pulse enters the 26000 µs gap, with IDX past the string. -/
theorem advance_cmd_last (A C : List Char8) (s : State) (hp : s.phase = .cmd) (h : (s.idx + 1#6).toNat = C.length) :
    advance A C s = { s with idx := s.idx + 1#6, phase := .gapr, gcnt := 26000#24 } := by
  simp only [advance, hp, advanceCmd, if_pos h, enterGapr, gapRepeat]

theorem advance_cmd_more (A C : List Char8) (s : State) (hp : s.phase = .cmd) (h : (s.idx + 1#6).toNat ≠ C.length) :
    advance A C s = { s with idx := s.idx + 1#6 } := by
  simp only [advance, hp, advanceCmd, if_neg h]

/-- The last repeat ends the send. -/
theorem endRepeat_last (s : State) (h : s.rep = 1#16) : endRepeat s = { s with rep := 0#16, phase := .idle } := by
  simp [endRepeat, h]

theorem endRepeat_more (s : State) (h : s.rep ≠ 1#16) :
    endRepeat s = { s with rep := s.rep - 1#16, phase := .sync, scnt := 12#4, sub := .hiSet } := by
  have h0 : ¬ s.rep - 1#16 = 0#16 := fun e => h (by bv_omega)
  simp only [endRepeat, if_neg h0, beginRepeat, nSync]

/-- A section pulse is in progress: the three phases whose steps are pulse steps. -/
abbrev State.inPulse (s : State) : Prop := s.phase = .sync ∨ s.phase = .addr ∨ s.phase = .cmd

theorem inPulse_of_phase (s u : State) (h : u.phase = s.phase) (hp : s.inPulse) : u.inPulse := by
  rwa [State.inPulse, h]

theorem seqStep_pulse (A C : List Char8) (s : State) (h : s.inPulse) : seqStep A C s = pulseStep A C s := by
  obtain h | h | h := h <;> simp [seqStep, h]

theorem seqStep_gaps (A C : List Char8) (s : State) (h : s.phase = .gaps) :
    seqStep A C s = .next (enterAddr A C (gapHold s)) := by
  simp [seqStep, h]

theorem seqStep_gapr (A C : List Char8) (s : State) (h : s.phase = .gapr) :
    seqStep A C s = .next (endRepeat (gapHold s)) := by
  simp [seqStep, h]

/-- Every phase is idle, a pulse phase or a gap. -/
theorem phase_cases (s : State) : s.phase = .idle ∨ s.inPulse ∨ s.phase = .gaps ∨ s.phase = .gapr := by
  unfold State.inPulse
  cases s.phase <;> simp

theorem pulseStep_hiSet (A C : List Char8) (s : State) (t : PulseTiming) (h : s.sub = .hiSet)
    (ht : curTiming A C s = some t) : pulseStep A C s = .next { pulseHiSet t s with sub := .hiHold } := by
  simp [pulseStep, h, ht]

theorem pulseStep_hiSet_none (A C : List Char8) (s : State) (h : s.sub = .hiSet) (ht : curTiming A C s = none) :
    pulseStep A C s = .fault .symbolIndex := by
  simp [pulseStep, h, ht]

theorem pulseStep_hiHold (A C : List Char8) (s : State) (h : s.sub = .hiHold) :
    pulseStep A C s = .next { pulseHiHold s with sub := .loSet } := by
  simp [pulseStep, h]

theorem pulseStep_loSet (A C : List Char8) (s : State) (h : s.sub = .loSet) :
    pulseStep A C s = .next { pulseLoSet s with sub := .loHold } := by
  simp [pulseStep, h]

theorem pulseStep_loHold (A C : List Char8) (s : State) (h : s.sub = .loHold) :
    pulseStep A C s = .next (advance A C { pulseLoHold s with sub := .hiSet }) := by
  simp [pulseStep, h]

/-- The event a busy state's next step emits. -/
def State.nextEvent (s : State) : Event :=
  match holdCounter s with
  | some d => .delay d
  | none => if s.sub = .loSet then .pinLevel s.pin .low else .pinLevel s.pin .high

theorem nextEvent_hold (s : State) (d : Dur) (h : holdCounter s = some d) : s.nextEvent = .delay d := by
  simp [State.nextEvent, h]

theorem nextEvent_hiSet (s : State) (h : s.inPulse) (hs : s.sub = .hiSet) : s.nextEvent = .pinLevel s.pin .high := by
  obtain h | h | h := h <;> simp [State.nextEvent, holdCounter, h, hs]

theorem nextEvent_loSet (s : State) (h : s.inPulse) (hs : s.sub = .loSet) : s.nextEvent = .pinLevel s.pin .low := by
  obtain h | h | h := h <;> simp [State.nextEvent, holdCounter, h, hs]

theorem holdCounter_hiHold (s : State) (h : s.inPulse) (hs : s.sub = .hiHold) : holdCounter s = some s.hcnt := by
  obtain h | h | h := h <;> simp [holdCounter, h, hs]

theorem holdCounter_loHold (s : State) (h : s.inPulse) (hs : s.sub = .loHold) : holdCounter s = some s.lcnt := by
  obtain h | h | h := h <;> simp [holdCounter, h, hs]

theorem holdCounter_gaps (s : State) (h : s.phase = .gaps) : holdCounter s = some s.gcnt := by
  simp [holdCounter, h]

theorem holdCounter_gapr (s : State) (h : s.phase = .gapr) : holdCounter s = some s.gcnt := by
  simp [holdCounter, h]

/-- A pulse step's frame: one event, LEVEL as the event leaves it, the counters of the pulse, SEQ and GCNT. -/
theorem pulseStep_frame (A C : List Char8) (s t : State) (hp : s.inPulse) (h : pulseStep A C s = .next t) :
    ∃ ph n i sb hc lc g, t = { s with
      trace := s.trace ++ [s.nextEvent], level := levelAfter s.level s.nextEvent
      phase := ph, scnt := n, idx := i, sub := sb, hcnt := hc, lcnt := lc, gcnt := g } ∧ ph ≠ .idle := by
  have hi : s.phase ≠ .idle := by obtain h | h | h := hp <;> simp [h]
  cases hs : s.sub with
  | hiSet =>
    rw [nextEvent_hiSet s hp hs]
    cases ht : curTiming A C s with
    | none => rw [pulseStep_hiSet_none A C s hs ht] at h; cases h
    | some tm =>
      rw [pulseStep_hiSet A C s tm hs ht] at h
      cases h
      exact ⟨s.phase, s.scnt, s.idx, _, _, _, s.gcnt, rfl, hi⟩
  | hiHold =>
    rw [nextEvent_hold s _ (holdCounter_hiHold s hp hs)]
    rw [pulseStep_hiHold A C s hs] at h
    cases h
    exact ⟨s.phase, s.scnt, s.idx, _, _, s.lcnt, s.gcnt, rfl, hi⟩
  | loSet =>
    rw [nextEvent_loSet s hp hs]
    rw [pulseStep_loSet A C s hs] at h
    cases h
    exact ⟨s.phase, s.scnt, s.idx, _, s.hcnt, s.lcnt, s.gcnt, rfl, hi⟩
  | loHold =>
    rw [nextEvent_hold s _ (holdCounter_loHold s hp hs)]
    rw [pulseStep_loHold A C s hs] at h
    obtain ⟨ph, n, i, sb, g, e, hne⟩ := advance_frame A C { pulseLoHold s with sub := .hiSet }
    rw [e] at h
    cases h
    exact ⟨ph, n, i, sb, s.hcnt, _, g, rfl, hne hi⟩

/-- The frame of every busy step: one event, LEVEL as the event leaves it, SEQ and the three counters. -/
theorem seqStep_frame (A C : List Char8) (s t : State) (hp : s.phase ≠ .idle) (h : seqStep A C s = .next t) :
    ∃ ph r n i sb hc lc g, t = { s with
      trace := s.trace ++ [s.nextEvent], level := levelAfter s.level s.nextEvent
      phase := ph, rep := r, scnt := n, idx := i, sub := sb, hcnt := hc, lcnt := lc, gcnt := g } := by
  obtain hi | hi | hi | hi := phase_cases s
  · exact absurd hi hp
  · rw [seqStep_pulse A C s hi] at h
    obtain ⟨ph, n, i, sb, hc, lc, g, e, -⟩ := pulseStep_frame A C s t hi h
    exact ⟨ph, s.rep, n, i, sb, hc, lc, g, e⟩
  · rw [seqStep_gaps A C s hi] at h
    obtain ⟨ph, i, sb, g, e, -⟩ := enterAddr_frame A C (gapHold s)
    rw [e] at h
    rw [nextEvent_hold s _ (holdCounter_gaps s hi)]
    cases h
    exact ⟨ph, s.rep, s.scnt, i, sb, s.hcnt, s.lcnt, g, rfl⟩
  · rw [seqStep_gapr A C s hi] at h
    obtain ⟨ph, r, n, sb, e⟩ := endRepeat_frame (gapHold s)
    rw [e] at h
    rw [nextEvent_hold s _ (holdCounter_gapr s hi)]
    cases h
    exact ⟨ph, r, n, s.idx, sb, s.hcnt, s.lcnt, _, rfl⟩

/-- A busy step stops only where IDX is no index of its string. -/
theorem seqStep_next (A C : List Char8) (s : State) (ha : s.phase = .addr → s.idx.toNat < A.length)
    (hc : s.phase = .cmd → s.idx.toNat < C.length) : ∃ t, seqStep A C s = .next t := by
  obtain hi | hi | hi | hi := phase_cases s
  · exact ⟨s, by simp [seqStep, hi]⟩
  · rw [seqStep_pulse A C s hi]
    cases hs : s.sub with
    | hiSet =>
      have ht : (curTiming A C s).isSome = true := by
        obtain h | h | h := hi
        · simp [curTiming_sync A C s h]
        · simp [curTiming_addr A C s h, symbolTiming_isSome, ha h]
        · simp [curTiming_cmd A C s h, symbolTiming_isSome, hc h]
      obtain ⟨tm, htm⟩ := Option.isSome_iff_exists.mp ht
      exact ⟨_, pulseStep_hiSet A C s tm hs htm⟩
    | hiHold => exact ⟨_, pulseStep_hiHold A C s hs⟩
    | loSet => exact ⟨_, pulseStep_loSet A C s hs⟩
    | loHold => exact ⟨_, pulseStep_loHold A C s hs⟩
  · exact ⟨_, seqStep_gaps A C s hi⟩
  · exact ⟨_, seqStep_gapr A C s hi⟩

/-- Four steps from the start of a pulse are the whole pulse and the advance. -/
theorem seqRun_pulse (A C : List Char8) (s : State) (tm : PulseTiming) (hp : s.inPulse) (hs : s.sub = .hiSet)
    (ht : curTiming A C s = some tm) : seqRun A C 4 s = .next (advance A C (txpulse tm s)) := by
  have h1 : seqStep A C s = .next { pulseHiSet tm s with sub := .hiHold } := by
    rw [seqStep_pulse A C s hp, pulseStep_hiSet A C s tm hs ht]
  generalize e1 : ({ pulseHiSet tm s with sub := .hiHold } : State) = u1 at h1
  have p1 : u1.inPulse := inPulse_of_phase s u1 (by rw [← e1]; rfl) hp
  have h2 := (seqStep_pulse A C u1 p1).trans (pulseStep_hiHold A C u1 (by rw [← e1]))
  generalize e2 : ({ pulseHiHold u1 with sub := .loSet } : State) = u2 at h2
  have p2 : u2.inPulse := inPulse_of_phase u1 u2 (by rw [← e2]; rfl) p1
  have h3 := (seqStep_pulse A C u2 p2).trans (pulseStep_loSet A C u2 (by rw [← e2]))
  generalize e3 : ({ pulseLoSet u2 with sub := .loHold } : State) = u3 at h3
  have p3 : u3.inPulse := inPulse_of_phase u2 u3 (by rw [← e3]; rfl) p2
  have h4 := (seqStep_pulse A C u3 p3).trans (pulseStep_loHold A C u3 (by rw [← e3]))
  have e4 : ({ pulseLoHold u3 with sub := .hiSet } : State) = txpulse tm s := by
    rw [← e3, ← e2, ← e1]
    ext <;> simp [txpulse, hs]
  rw [e4] at h4
  simp only [seqRun, h1, h2, h3, h4]

/-- A run of `m + n` steps is a run of `m` and then of `n`. -/
theorem seqRun_add (A C : List Char8) (m n : Nat) (s t : State) (h : seqRun A C m s = .next t) :
    seqRun A C (m + n) s = seqRun A C n t := by
  induction m generalizing s with
  | zero =>
    cases h
    rw [Nat.zero_add]
  | succ m ih =>
    rw [Nat.succ_add]
    simp only [seqRun] at h ⊢
    cases hq : seqStep A C s with
    | next u =>
      rw [hq] at h
      exact ih u h
    | fault r =>
      rw [hq] at h
      cases h
    | refused r =>
      rw [hq] at h
      cases h

end Sys2Proof.Machine
end

