-- ==== Sys2Proof/Laws/Commute.lean ====
section
/-! SUPPORT. A change of state that the sequencer neither reads nor overwrites commutes with its step: what shows that ERR, the
trace, REPEAT and the host's words are not read by a send. -/

namespace Sys2Proof.Machine

/-- A change of state that leaves SEQ, commutes with the writes of SEQ and GCNT, and commutes with the parts of a pulse. -/
structure Unread (f : State → State) : Prop where
  phase : ∀ s, (f s).phase = s.phase
  sub : ∀ s, (f s).sub = s.sub
  idx : ∀ s, (f s).idx = s.idx
  scnt : ∀ s, (f s).scnt = s.scnt
  rep : ∀ s, (f s).rep = s.rep
  setPhase : ∀ s x, f { s with phase := x } = { f s with phase := x }
  setSub : ∀ s x, f { s with sub := x } = { f s with sub := x }
  setIdx : ∀ s x, f { s with idx := x } = { f s with idx := x }
  setScnt : ∀ s x, f { s with scnt := x } = { f s with scnt := x }
  setRep : ∀ s x, f { s with rep := x } = { f s with rep := x }
  setGcnt : ∀ s x, f { s with gcnt := x } = { f s with gcnt := x }
  timing : ∀ A C s, curTiming A C (f s) = curTiming A C s
  hiSet : ∀ t s, pulseHiSet t (f s) = f (pulseHiSet t s)
  hiHold : ∀ s, pulseHiHold (f s) = f (pulseHiHold s)
  loSet : ∀ s, pulseLoSet (f s) = f (pulseLoSet s)
  loHold : ∀ s, pulseLoHold (f s) = f (pulseLoHold s)
  gap : ∀ s, gapHold (f s) = f (gapHold s)

/-- ERR is such a change. -/
theorem unread_err (e : BitVec 5) : Unread (fun s => { s with err := e }) where
  phase _ := rfl
  sub _ := rfl
  idx _ := rfl
  scnt _ := rfl
  rep _ := rfl
  setPhase _ _ := rfl
  setSub _ _ := rfl
  setIdx _ _ := rfl
  setScnt _ _ := rfl
  setRep _ _ := rfl
  setGcnt _ _ := rfl
  timing _ _ _ := rfl
  hiSet _ _ := rfl
  hiHold _ := rfl
  loSet _ := rfl
  loHold _ := rfl
  gap _ := rfl

/-- The next state of an outcome, changed; a stop stays as it is. -/
def mapNext (f : State → State) : Host.Outcome State Fault Refusal → Host.Outcome State Fault Refusal
  | .next s => .next (f s)
  | .fault r => .fault r
  | .refused r => .refused r

theorem mapNext_eq_next (f : State → State) (o : Host.Outcome State Fault Refusal) (t : State)
    (h : mapNext f o = .next t) : ∃ u, o = .next u ∧ t = f u := by
  cases o with
  | next u => exact ⟨u, rfl, (Host.Outcome.next.inj h).symm⟩
  | fault r => cases h
  | refused r => cases h

theorem enterGapr_commute (f : State → State) (h : Unread f) (s : State) : enterGapr (f s) = f (enterGapr s) := by
  have e := h.setPhase { s with gcnt := gapRepeat } .gapr
  rw [h.setGcnt] at e
  exact e.symm

theorem enterCmd_commute (f : State → State) (h : Unread f) (C : List Char8) (s : State) :
    enterCmd C (f s) = f (enterCmd C s) := by
  unfold enterCmd
  split
  · exact enterGapr_commute f h s
  · have e := h.setPhase { { s with idx := 0#6 } with sub := .hiSet } .cmd
    rw [h.setSub, h.setIdx] at e
    exact e.symm

theorem enterAddr_commute (f : State → State) (h : Unread f) (A C : List Char8) (s : State) :
    enterAddr A C (f s) = f (enterAddr A C s) := by
  unfold enterAddr
  split
  · exact enterCmd_commute f h C s
  · have e := h.setPhase { { s with idx := 0#6 } with sub := .hiSet } .addr
    rw [h.setSub, h.setIdx] at e
    exact e.symm

theorem beginRepeat_commute (f : State → State) (h : Unread f) (s : State) : beginRepeat (f s) = f (beginRepeat s) := by
  have e := h.setPhase { { s with scnt := nSync } with sub := .hiSet } .sync
  rw [h.setSub, h.setScnt] at e
  exact e.symm

theorem advance_commute (f : State → State) (h : Unread f) (A C : List Char8) (s : State) :
    advance A C (f s) = f (advance A C s) := by
  unfold advance
  rw [h.phase]
  cases s.phase with
  | idle => rfl
  | gaps => rfl
  | gapr => rfl
  | sync =>
    dsimp only
    unfold advanceSync
    rw [h.scnt]
    split
    · have e := h.setPhase { { s with scnt := s.scnt - 1#4 } with gcnt := gapSection } .gaps
      rw [h.setGcnt, h.setScnt] at e
      exact e.symm
    · exact (h.setScnt s _).symm
  | addr =>
    dsimp only
    unfold advanceAddr
    rw [h.idx]
    split
    · exact (congrArg (enterCmd C) (h.setIdx s (s.idx + 1#6)).symm).trans (enterCmd_commute f h C _)
    · exact (h.setIdx s _).symm
  | cmd =>
    dsimp only
    unfold advanceCmd
    rw [h.idx]
    split
    · exact (congrArg enterGapr (h.setIdx s (s.idx + 1#6)).symm).trans (enterGapr_commute f h _)
    · exact (h.setIdx s _).symm

theorem endRepeat_commute (f : State → State) (h : Unread f) (s : State) : endRepeat (f s) = f (endRepeat s) := by
  unfold endRepeat
  rw [h.rep]
  split
  · have e := h.setPhase { s with rep := s.rep - 1#16 } .idle
    rw [h.setRep] at e
    exact e.symm
  · exact (congrArg beginRepeat (h.setRep s _).symm).trans (beginRepeat_commute f h _)

/-- The step commutes with a change it neither reads nor overwrites. -/
theorem seqStep_commute (f : State → State) (h : Unread f) (A C : List Char8) (s : State) :
    seqStep A C (f s) = mapNext f (seqStep A C s) := by
  have hp : pulseStep A C (f s) = mapNext f (pulseStep A C s) := by
    unfold pulseStep
    rw [h.sub]
    cases s.sub with
    | hiSet =>
      dsimp only
      rw [h.timing]
      cases curTiming A C s with
      | none => rfl
      | some t =>
        dsimp only
        rw [h.hiSet]
        exact congrArg Host.Outcome.next (h.setSub _ _).symm
    | hiHold =>
      dsimp only
      rw [h.hiHold]
      exact congrArg Host.Outcome.next (h.setSub _ _).symm
    | loSet =>
      dsimp only
      rw [h.loSet]
      exact congrArg Host.Outcome.next (h.setSub _ _).symm
    | loHold =>
      dsimp only
      rw [h.loHold]
      exact congrArg Host.Outcome.next
        ((congrArg (advance A C) (h.setSub (pulseLoHold s) .hiSet).symm).trans (advance_commute f h A C _))
  unfold seqStep
  rw [h.phase]
  cases s.phase with
  | idle => rfl
  | sync => exact hp
  | addr => exact hp
  | cmd => exact hp
  | gaps =>
    dsimp only
    rw [h.gap, enterAddr_commute f h]
    rfl
  | gapr =>
    dsimp only
    rw [h.gap, endRepeat_commute f h]
    rfl

/-- So does a run of it. -/
theorem seqRun_commute (f : State → State) (h : Unread f) (A C : List Char8) (n : Nat) (s : State) :
    seqRun A C n (f s) = mapNext f (seqRun A C n s) := by
  induction n generalizing s with
  | zero => rfl
  | succ n ih =>
    have e := seqStep_commute f h A C s
    cases hq : seqStep A C s with
    | next t =>
      rw [hq] at e
      simp only [seqRun, hq, e, mapNext, ih t]
    | fault r =>
      rw [hq] at e
      simp only [seqRun, hq, e, mapNext]
    | refused r =>
      rw [hq] at e
      simp only [seqRun, hq, e, mapNext]

end Sys2Proof.Machine
end

