-- ==== Sys2Proof/Laws/Decode.lean ====
section
/-! SUPPORT. The fields of a word of format H, and a word as its fields. -/

namespace Sys2Proof

theorem formatH_getLsbD (op : BitVec 4) (arg : Half) (i : Nat) :
    (formatH op arg).getLsbD i =
      if i < 16 then arg.getLsbD i else if i - 16 < 12 then false else op.getLsbD (i - 16 - 12) := by
  have h : ((op ++ 0#12) ++ arg).getLsbD i =
      if i < 16 then arg.getLsbD i else (op ++ 0#12).getLsbD (i - 16) := BitVec.getLsbD_append
  rw [BitVec.getLsbD_append (x := op), BitVec.getLsbD_zero] at h
  exact h

theorem bytes_getLsbD (hi lo : BitVec 8) (i : Nat) :
    BitVec.getLsbD (w := 16) (hi ++ lo) i = if i < 8 then lo.getLsbD i else hi.getLsbD (i - 8) := by
  have h : (hi ++ lo).getLsbD i = _ := BitVec.getLsbD_append
  exact h

@[simp] theorem fieldOp_formatH (op : BitVec 4) (arg : Half) : fieldOp (formatH op arg) = op := by
  apply BitVec.eq_of_getLsbD_eq
  intro i hi
  have h1 : ¬ (28 + i < 16) := by omega
  have h2 : ¬ (28 + i - 16 < 12) := by omega
  have h3 : 28 + i - 16 - 12 = i := by omega
  simp only [fieldOp, BitVec.getLsbD_extractLsb', formatH_getLsbD, if_neg h1, if_neg h2, h3, hi, decide_true, Bool.true_and]

@[simp] theorem fieldZ_formatH (op : BitVec 4) (arg : Half) : fieldZ (formatH op arg) = 0#12 := by
  apply BitVec.eq_of_getLsbD_eq
  intro i hi
  have h1 : ¬ (16 + i < 16) := by omega
  have h2 : 16 + i - 16 < 12 := by omega
  simp only [fieldZ, BitVec.getLsbD_extractLsb', formatH_getLsbD, if_neg h1, if_pos h2, Bool.and_false, BitVec.getLsbD_zero]

@[simp] theorem fieldArg_formatH (op : BitVec 4) (arg : Half) : fieldArg (formatH op arg) = arg := by
  apply BitVec.eq_of_getLsbD_eq
  intro i hi
  simp only [fieldArg, BitVec.getLsbD_extractLsb', formatH_getLsbD, Nat.zero_add, hi, decide_true, Bool.true_and, if_true]

/-- An operand is its high byte and its low byte. -/
theorem fieldArg_bytes (w : Word) : fieldArg w = fieldArgHigh w ++ fieldChar w := by
  apply BitVec.eq_of_getLsbD_eq
  intro i hi
  rw [BitVec.getLsbD_append]
  simp only [fieldArg, fieldArgHigh, fieldChar, BitVec.getLsbD_extractLsb', Nat.zero_add, hi, decide_true, Bool.true_and]
  split_ifs with h1
  · simp [h1]
  · simp [show i - 8 < 8 by omega, show 8 + (i - 8) = i by omega]

@[simp] theorem fieldChar_formatH (op : BitVec 4) (hi lo : BitVec 8) : fieldChar (formatH op (hi ++ lo)) = lo := by
  apply BitVec.eq_of_getLsbD_eq
  intro i h
  have h1 : i < 16 := by omega
  simp only [fieldChar, BitVec.getLsbD_extractLsb', formatH_getLsbD, Nat.zero_add, if_pos h1, h, decide_true, Bool.true_and]
  rw [bytes_getLsbD, if_pos h]

@[simp] theorem fieldArgHigh_formatH (op : BitVec 4) (hi lo : BitVec 8) : fieldArgHigh (formatH op (hi ++ lo)) = hi := by
  apply BitVec.eq_of_getLsbD_eq
  intro i h
  have h1 : 8 + i < 16 := by omega
  simp only [fieldArgHigh, BitVec.getLsbD_extractLsb', formatH_getLsbD, if_pos h1, h, decide_true, Bool.true_and]
  rw [bytes_getLsbD, if_neg (by omega), show 8 + i - 8 = i by omega]

/-- A word whose reserved field is zero is the word of its opcode and its operand. -/
theorem formatH_fields (w : Word) (hz : fieldZ w = 0#12) : formatH (fieldOp w) (fieldArg w) = w := by
  apply BitVec.eq_of_getLsbD_eq
  intro i hi
  rw [formatH_getLsbD]
  split_ifs with h1 h2
  · simp only [fieldArg, BitVec.getLsbD_extractLsb', Nat.zero_add, h1, decide_true, Bool.true_and]
  · have h := congrArg (fun b => b.getLsbD (i - 16)) hz
    simp only [fieldZ, BitVec.getLsbD_extractLsb', h2, decide_true, Bool.true_and, BitVec.getLsbD_zero,
      show 16 + (i - 16) = i by omega] at h
    exact h.symm
  · simp only [fieldOp, BitVec.getLsbD_extractLsb', show i - 16 - 12 < 4 by omega, decide_true, Bool.true_and,
      show 28 + (i - 16 - 12) = i by omega]

end Sys2Proof
end

