-- ==== Sys2Proof/Laws/PerInstr.lean ====
section
/-! SUPPORT. The family FixedBits: an instruction's code has the fixed bits of its row of spec/opcode_table.json. -/

namespace Sys2Proof

/-- The fixed bits of a command word: the mask, and the value under it (30_encoding.md section 2). -/
def Laws.FixedBits.wordRow (mask value : Word) (c : Code) : Prop := ∃ w, c = .word w ∧ w &&& mask = value

/-- The fixed bits of a character; a row without any has mask 0 (30_encoding.md section 5). -/
def Laws.FixedBits.charRow (mask value : Char8) (c : Code) : Prop := ∃ ch, c = .char ch ∧ ch &&& mask = value

/-- The fixed bits of each row. -/
def Laws.FixedBits.Statement (i : Instr) : Prop :=
  match i with
  | .cfgout _ => Laws.FixedBits.wordRow 0xFFFF0000#32 0x10000000#32 (encode i)
  | .setrep _ => Laws.FixedBits.wordRow 0xFFFF0000#32 0x20000000#32 (encode i)
  | .seladdr _ => Laws.FixedBits.wordRow 0xFFFF0000#32 0x30000000#32 (encode i)
  | .send _ => Laws.FixedBits.wordRow 0xFFFFFF00#32 0x40000000#32 (encode i)
  | .setplen _ => Laws.FixedBits.wordRow 0xFFFF0000#32 0x50000000#32 (encode i)
  | .setproto => Laws.FixedBits.wordRow 0xFFFFFFFF#32 0x60000000#32 (encode i)
  | .one => Laws.FixedBits.charRow 0xFF#8 0x31#8 (encode i)
  | .zero _ => Laws.FixedBits.charRow 0x00#8 0x00#8 (encode i)

/-- The upper half of a word of format H is its opcode. -/
theorem formatH_and_upper (op : BitVec 4) (arg : Half) :
    formatH op arg &&& 0xFFFF0000#32 = formatH op 0#16 := by
  apply BitVec.eq_of_getLsbD_eq
  intro i hi
  have e : (0xFFFF0000#32).getLsbD i = decide (16 ≤ i) := by
    interval_cases i <;> rfl
  rw [BitVec.getLsbD_and, formatH_getLsbD, formatH_getLsbD, e]
  by_cases h : i < 16
  · rw [if_pos h, if_pos h, BitVec.getLsbD_zero, decide_eq_false (by omega), Bool.and_false]
  · rw [if_neg h, if_neg h, decide_eq_true (by omega), Bool.and_true]

/-- All but the low byte of SEND's word is its opcode. -/
theorem formatH_and_send (op : BitVec 4) (c : BitVec 8) :
    formatH op (0#8 ++ c) &&& 0xFFFFFF00#32 = formatH op 0#16 := by
  apply BitVec.eq_of_getLsbD_eq
  intro i hi
  have e : (0xFFFFFF00#32).getLsbD i = decide (8 ≤ i) := by
    interval_cases i <;> rfl
  rw [BitVec.getLsbD_and, formatH_getLsbD, formatH_getLsbD, e]
  by_cases h : i < 16
  · rw [if_pos h, if_pos h, bytes_getLsbD, BitVec.getLsbD_zero, BitVec.getLsbD_zero]
    by_cases h8 : i < 8
    · rw [if_pos h8, decide_eq_false (by omega), Bool.and_false]
    · rw [if_neg h8, Bool.false_and]
  · rw [if_neg h, if_neg h, decide_eq_true (by omega), Bool.and_true]

theorem Laws.FixedBits.cfgout (pin : Half) : Laws.FixedBits.Statement (.cfgout pin) :=
  ⟨_, rfl, formatH_and_upper 0x1#4 pin⟩

theorem Laws.FixedBits.setrep (n : Half) : Laws.FixedBits.Statement (.setrep n) :=
  ⟨_, rfl, formatH_and_upper 0x2#4 n⟩

theorem Laws.FixedBits.seladdr (index : Half) : Laws.FixedBits.Statement (.seladdr index) :=
  ⟨_, rfl, formatH_and_upper 0x3#4 index⟩

theorem Laws.FixedBits.send (c : Char8) : Laws.FixedBits.Statement (.send c) :=
  ⟨_, rfl, formatH_and_send 0x4#4 c⟩

theorem Laws.FixedBits.setplen (us : Half) : Laws.FixedBits.Statement (.setplen us) :=
  ⟨_, rfl, formatH_and_upper 0x5#4 us⟩

theorem Laws.FixedBits.setproto : Laws.FixedBits.Statement .setproto :=
  ⟨_, rfl, by decide⟩

theorem Laws.FixedBits.one : Laws.FixedBits.Statement .one :=
  ⟨_, rfl, by decide⟩

theorem Laws.FixedBits.zero (ch : Char8) : Laws.FixedBits.Statement (.zero ch) :=
  ⟨ch, rfl, BitVec.and_zero⟩

end Sys2Proof
end

