-- ==== Sys2Proof/Laws/Step.lean ====
section
/-! SUPPORT. The step as the host's step or the sequencer's, each case said once. -/

namespace Sys2Proof.Machine

theorem step_idle (s : State) (h : s.phase = .idle) : step s = hostStep s := by
  simp [step, h]

theorem step_busy (s : State) (h : s.phase ≠ .idle) : step s = seqStep s.addr.toList s.code.toList s := by
  unfold step
  cases hp : s.phase <;> first | exact absurd hp h | rfl

theorem hostStep_nil (s : State) (h : s.hostOps = []) : hostStep s = .next s := by
  simp [hostStep, takeWord, h]

/-- The host's step on a legal word is exec of its instruction, the word taken. -/
theorem hostStep_ok (s : State) (w : Word) (rest : List Word) (i : Instr) (h : s.hostOps = w :: rest)
    (hd : decodeWord w = .ok i) : hostStep s = exec i { s with hostOps := rest } := by
  simp [hostStep, takeWord, h, hd]

/-- The host's step on an illegal word raises ILLEGAL_OP, the word taken. -/
theorem hostStep_illegal (s : State) (w : Word) (rest : List Word) (r : Illegal) (h : s.hostOps = w :: rest)
    (hd : decodeWord w = .illegal r) : hostStep s = .next (raise .illegalOp { s with hostOps := rest }) := by
  simp [hostStep, takeWord, h, hd]

/-- An accepted SEND is the latch and the start. -/
theorem exec_send_accepted (c : Char8) (code : Vector Char8 26) (s : State) (hc : lkcmd c = some code)
    (ha : s.addrSet = true) (hp : s.pinSet = true) : exec (.send c) s = .next (seqStart { s with code := code }) := by
  simp [exec, execSend, hc, ha, hp]

/-- Every instruction answers a next state, in every state. -/
theorem exec_next (i : Instr) (s : State) : ∃ t, exec i s = .next t := by
  cases i with
  | seladdr index =>
    simp only [exec, execSeladdr]
    cases lkaddr index <;> exact ⟨_, rfl⟩
  | send c =>
    simp only [exec, execSend]
    cases lkcmd c with
    | none => exact ⟨_, rfl⟩
    | some code =>
      dsimp only
      split_ifs <;> exact ⟨_, rfl⟩
  | cfgout pin => exact ⟨_, rfl⟩
  | setrep n => exact ⟨_, rfl⟩
  | setplen us => exact ⟨_, rfl⟩
  | setproto => exact ⟨_, rfl⟩
  | one => exact ⟨_, rfl⟩
  | zero ch => exact ⟨_, rfl⟩

theorem stepRun_succ (n : Nat) (s t : State) (h : step s = .next t) : stepRun (n + 1) s = stepRun n t := by
  simp only [stepRun, h]

/-- A run of `m + n` steps is a run of `m` and then of `n`. -/
theorem stepRun_add (m n : Nat) (s t : State) (h : stepRun m s = .next t) : stepRun (m + n) s = stepRun n t := by
  induction m generalizing s with
  | zero =>
    cases h
    rw [Nat.zero_add]
  | succ m ih =>
    rw [Nat.succ_add]
    simp only [stepRun] at h ⊢
    cases hq : step s with
    | next u =>
      rw [hq] at h
      exact ih u h
    | fault r =>
      rw [hq] at h
      cases h
    | refused r =>
      rw [hq] at h
      cases h

/-- The host's run of the machine is this one. -/
theorem core_run (n : Nat) (s : State) : Host.Core.run Sys2Proof.core n s = stepRun n s := by
  induction n generalizing s with
  | zero => rfl
  | succ n ih =>
    cases h : step s with
    | next t =>
      have hc : Sys2Proof.core.step s = .next t := h
      simp only [Host.Core.run, stepRun, h, hc]
      exact ih t
    | fault r =>
      have hc : Sys2Proof.core.step s = .fault r := h
      simp only [Host.Core.run, stepRun, h, hc]
      rfl
    | refused r =>
      have hc : Sys2Proof.core.step s = .refused r := h
      simp only [Host.Core.run, stepRun, h, hc]
      rfl

/-- While busy, `n` steps of the machine are `n` of the sequencer, as long as the run stays busy. -/
theorem stepRun_of_seqRun (n : Nat) (s t : State) (h : seqRun s.addr.toList s.code.toList n s = .next t)
    (hb : ∀ k, k < n → ∃ u, seqRun s.addr.toList s.code.toList k s = .next u ∧ u.phase ≠ .idle) :
    stepRun n s = .next t := by
  induction n generalizing s with
  | zero => exact h
  | succ n ih =>
    obtain ⟨u, hu, hub⟩ := hb 0 (Nat.succ_pos n)
    cases hu
    cases hq : seqStep s.addr.toList s.code.toList s with
    | next v =>
      obtain ⟨ph, r, m, i, sb, hc, lc, g, hv⟩ := seqStep_frame _ _ s v hub hq
      have ha : v.addr = s.addr := by rw [hv]
      have hco : v.code = s.code := by rw [hv]
      have e : stepRun (n + 1) s = stepRun n v := by
        exact stepRun_succ n s v ((step_busy s hub).trans hq)
      rw [e]
      apply ih v
      · rw [ha, hco]
        simpa [seqRun, hq] using h
      · intro k hk
        obtain ⟨u, hu, hub'⟩ := hb (k + 1) (Nat.succ_lt_succ hk)
        refine ⟨u, ?_, hub'⟩
        rw [ha, hco]
        simpa [seqRun, hq] using hu
    | fault r => simp [seqRun, hq] at h
    | refused r => simp [seqRun, hq] at h

end Sys2Proof.Machine
end

