-- ==== Sys2Proof/Laws/Tick.lean ====
section
/-! SUPPORT. The tick level by cases: the counter of a hold read and replaced, a tick, a hold. -/

namespace Sys2Proof.Machine

theorem stepAt_next (f : State → Host.Outcome State Fault Refusal) (s t : State) (now : Nat) (h : f s = .next t) :
    stepAt f s now = .next ⟨t, 0#24, now⟩ := by
  simp only [stepAt, h]

/-- A hold is a gap or the high or low part of a pulse, and replacing its counter replaces that one field. -/
theorem holdCounter_cases (s : State) (d : Dur) (h : holdCounter s = some d) :
    (s.inPulse ∧ s.sub = .hiHold ∧ d = s.hcnt ∧ ∀ x, withHoldCounter x s = { s with hcnt := x }) ∨
    (s.inPulse ∧ s.sub = .loHold ∧ d = s.lcnt ∧ ∀ x, withHoldCounter x s = { s with lcnt := x }) ∨
    ((s.phase = .gaps ∨ s.phase = .gapr) ∧ d = s.gcnt ∧ ∀ x, withHoldCounter x s = { s with gcnt := x }) := by
  unfold State.inPulse
  cases hp : s.phase <;> cases hs : s.sub <;> simp [holdCounter, withHoldCounter, hp, hs] at h ⊢ <;> exact h.symm

/-- Replacing the counter twice is replacing it once. -/
theorem withHoldCounter_twice (x y : Dur) (s : State) : withHoldCounter x (withHoldCounter y s) = withHoldCounter x s := by
  cases hp : s.phase <;> cases hs : s.sub <;> simp [withHoldCounter, hp, hs]

/-- In a hold the counter reads as it was written. -/
theorem holdCounter_with (x d : Dur) (s : State) (h : holdCounter s = some d) :
    holdCounter (withHoldCounter x s) = some x := by
  cases hp : s.phase <;> cases hs : s.sub <;> simp [holdCounter, withHoldCounter, hp, hs] at h ⊢

/-- Writing the counter what it holds changes nothing. -/
theorem withHoldCounter_same (d : Dur) (s : State) (h : holdCounter s = some d) : withHoldCounter d s = s := by
  obtain ⟨-, -, rfl, e⟩ | ⟨-, -, rfl, e⟩ | ⟨-, rfl, e⟩ := holdCounter_cases s d h <;> rw [e]

theorem tickStep_none (f : State → Host.Outcome State Fault Refusal) (s : State) (sp : Dur) (now : Nat)
    (h : holdCounter s = none) : tickStep f ⟨s, sp, now⟩ = stepAt f s now := by
  simp only [tickStep, h]

theorem tickStep_zero (f : State → Host.Outcome State Fault Refusal) (s : State) (sp : Dur) (now : Nat)
    (h : holdCounter s = some 0#24) : tickStep f ⟨s, sp, now⟩ = stepAt f s now := by
  simp only [tickStep, h, if_true]

/-- The last tick of a hold is its step, from the state the hold began in. -/
theorem tickStep_last (f : State → Host.Outcome State Fault Refusal) (s : State) (sp : Dur) (now : Nat)
    (h : holdCounter s = some 1#24) :
    tickStep f ⟨s, sp, now⟩ = stepAt f (withHoldCounter (sp + 1#24) s) (now + 1) := by
  simp only [tickStep, h]
  rfl

/-- Every other tick counts down by one. -/
theorem tickStep_more (f : State → Host.Outcome State Fault Refusal) (s : State) (d sp : Dur) (now : Nat)
    (h : holdCounter s = some d) (h1 : 1 < d.toNat) :
    tickStep f ⟨s, sp, now⟩ = .next ⟨withHoldCounter (d - 1#24) s, sp + 1#24, now + 1⟩ := by
  have h0 : d ≠ 0#24 := fun e => by simp [e] at h1
  have h2 : d ≠ 1#24 := fun e => by simp [e] at h1
  simp only [tickStep, h, if_neg h0, if_neg h2]

theorem tickRun_succ (f : State → Host.Outcome State Fault Refusal) (n : Nat) (x y : TickState) (h : tickStep f x = .next y) :
    tickRun f (n + 1) x = tickRun f n y := by
  simp only [tickRun, h]

/-- A run of `m + n` is a run of `m` and then of `n`. -/
theorem tickRun_add (f : State → Host.Outcome State Fault Refusal) (m n : Nat) (x y : TickState)
    (h : tickRun f m x = .next y) : tickRun f (m + n) x = tickRun f n y := by
  induction m generalizing x with
  | zero =>
    cases h
    rw [Nat.zero_add]
  | succ m ih =>
    rw [Nat.succ_add]
    simp only [tickRun] at h ⊢
    cases hq : tickStep f x with
    | next u =>
      rw [hq] at h
      exact ih u h
    | fault r =>
      rw [hq] at h
      cases h
    | refused r =>
      rw [hq] at h
      cases h

end Sys2Proof.Machine
end

