-- ==== Sys2Proof/Tests/Slice0.lean ====
section
/-! SUPPORT. The model's own tests, with results from the spec's tables (30_encoding.md section 7, 95_test_vectors.md), and for
each statement that has hypotheses a state and operands that meet them. -/

namespace Sys2Proof.Tests

open Sys2Proof.Machine

/-! ### States and readers -/

/-- An idle state with pin 4 and an address selected, REPEAT 1 and the default protocol. -/
def ready : State := { State.reset with pin := 4#16, pinSet := true, addrSet := true, repeatCount := 1#16 }

/-- `ready` with words at the port. -/
def withWords (ws : List Word) : State := { ready with hostOps := ws }

/-- `ready` in a phase, at a sub-step, with one repeat left. -/
def busyAt (ph : Phase) (sb : Sub) : State := { ready with phase := ph, sub := sb, rep := 1#16 }

/-- The next state's field, if there is a next state. -/
def got {α : Type} (f : State → α) : Host.Outcome State Fault Refusal → Option α
  | .next s => some (f s)
  | .fault _ => none
  | .refused _ => none

/-- The events added to a state's trace, if there is a next state. -/
def events (o : Host.Outcome State Fault Refusal) : Option (List Event) := got State.trace o

/-! ### Well-formedness and decoding (30_encoding.md section 7; vectors E1 to E23) -/

theorem test_wellFormed_refuses_zero_of_one : (Instr.zero 0x31#8).wellFormed = false := by decide
theorem test_wellFormed_zero : (Instr.zero 0x30#8).wellFormed = true := by decide

theorem test_decode_cfgout : decodeWord 0x10000004#32 = .ok (.cfgout 4#16) := by decide
theorem test_decode_cfgout_top : decodeWord 0x1000FFFF#32 = .ok (.cfgout 65535#16) := by decide
theorem test_decode_setrep : decodeWord 0x2000FFFF#32 = .ok (.setrep 65535#16) := by decide
theorem test_decode_seladdr : decodeWord 0x30000002#32 = .ok (.seladdr 2#16) := by decide
theorem test_decode_send_o : decodeWord 0x4000006F#32 = .ok (.send 0x6F#8) := by decide
theorem test_decode_send_top : decodeWord 0x400000FF#32 = .ok (.send 0xFF#8) := by decide
theorem test_decode_setplen : decodeWord 0x5000015E#32 = .ok (.setplen 350#16) := by decide
theorem test_decode_setproto : decodeWord 0x60000000#32 = .ok .setproto := by decide
theorem test_decode_one : decode (.char 0x31#8) = .ok .one := by decide
theorem test_decode_zero : decode (.char 0x78#8) = .ok (.zero 0x78#8) := by decide

theorem test_illegal_opcode_0 : decodeWord 0x0000006F#32 = .illegal .unusedOpcode := by decide
theorem test_illegal_opcode_7 : decodeWord 0x70000000#32 = .illegal .unusedOpcode := by decide
theorem test_illegal_opcode_15 : decodeWord 0xFFFFFFFF#32 = .illegal .unusedOpcode := by decide
theorem test_illegal_z_low : decodeWord 0x10010004#32 = .illegal .reservedBits := by decide
theorem test_illegal_z_high : decodeWord 0x18000004#32 = .illegal .reservedBits := by decide
theorem test_illegal_z_send : decodeWord 0x4001006F#32 = .illegal .reservedBits := by decide
theorem test_illegal_send_high : decodeWord 0x40000168#32 = .illegal .sendArgHigh := by decide
theorem test_illegal_setproto_arg : decodeWord 0x60000001#32 = .illegal .setprotoArg := by decide

theorem test_encode_send : encode (.send 0x6F#8) = .word 0x4000006F#32 := by decide
theorem test_encode_setplen : encode (.setplen 350#16) = .word 0x5000015E#32 := by decide
theorem test_table_word : decodeTableWord 32 0x10000004 = some (.cfgout 4#16) := by decide
theorem test_table_char : decodeTableWord 8 0x31 = some .one := by decide
theorem test_table_refuses : decodeTableWord 32 0x10010004 = none := by decide

/-- `SEND "off"`, `SEND "o"` and `SEND "oak"` are one word; the empty name is carried as 0x00 (R94, R106). -/
theorem test_send_names :
    encode (sendOfName [0x6F#8, 0x66#8, 0x66#8]) = .word 0x4000006F#32 ∧
    encode (sendOfName [0x6F#8, 0x61#8, 0x6B#8]) = .word 0x4000006F#32 ∧
    encode (sendOfName []) = .word 0x40000000#32 := by decide

/-! ### The host operations (95_test_vectors.md sections 2.2, 2.4, 2.5) -/

theorem test_cfgout_event : events (exec (.cfgout 7#16) ready) = some [.pinMode 7#16] := by decide
theorem test_cfgout_level : got State.level (exec (.cfgout 4#16) { ready with level := some .low }) = some none := by decide
theorem test_setrep : got State.repeatCount (exec (.setrep 3#16) ready) = some 3#16 := by decide
theorem test_seladdr_fault : got State.err (exec (.seladdr 3#16) ready) = some 0b00010#5 := by decide
theorem test_seladdr_fault_keeps : got State.addrSet (exec (.seladdr 65535#16) ready) = some true := by decide
theorem test_send_unknown : got State.err (exec (.send 0x4F#8) ready) = some 0b00001#5 := by decide
theorem test_send_starts : got State.phase (exec (.send 0x68#8) ready) = some .sync := by rfl
theorem test_setplen : got State.protocol (exec (.setplen 350#16) ready) = some ⟨350#16, ⟨1#8, 2#8⟩, ⟨2#8, 1#8⟩, ⟨1#8, 2#8⟩⟩ := by
  decide
theorem test_setproto : got State.plen (exec .setproto { ready with plen := 350#16 }) = some 400#16 := by decide
theorem test_one : events (exec .one ready) =
    some [.pinLevel 4#16 .high, .delay 400#24, .pinLevel 4#16 .low, .delay 800#24] := by decide
theorem test_zero : events (exec (.zero 0x32#8) { ready with plen := 350#16 }) =
    some [.pinLevel 4#16 .high, .delay 700#24, .pinLevel 4#16 .low, .delay 350#24] := by decide

/-- T6: the largest product fits the 24 bits. -/
theorem test_largest_product : (pulseDur 65535#16 255#8).toNat = 16711425 := by decide

/-- An illegal word raises ILLEGAL_OP and is taken. -/
theorem test_step_illegal : got (fun s => (s.err, s.hostOps)) (step (withWords [0x70000000#32])) = some (0b10000#5, []) := by
  decide

/-! ### The sequencer and the waveform (95_test_vectors.md V1, W1 to W5) -/

theorem test_walk_1 : got (fun s => (s.sub, s.hcnt, s.lcnt)) (step { busyAt .sync .hiSet with scnt := 12#4 }) =
    some (.hiHold, 400#24, 800#24) := by decide
theorem test_walk_48 : got (fun s => (s.phase, s.scnt, s.gcnt)) (step { busyAt .sync .loHold with scnt := 1#4 }) =
    some (.gaps, 0#4, 5000#24) := by decide
theorem test_walk_54 : got (fun s => (s.hcnt, s.lcnt)) (seqStep [0x31#8, 0x30#8] [] { busyAt .addr .hiSet with idx := 1#6 }) =
    some (800#24, 400#24) := by decide
theorem test_walk_57 : got (fun s => (s.phase, s.idx)) (seqStep [0x31#8, 0x30#8] [0x30#8] { busyAt .addr .loHold with idx := 1#6 }) =
    some (.cmd, 0#6) := by decide
theorem test_walk_66 : got (fun s => (s.phase, s.rep)) (step { busyAt .gapr .hiSet with gcnt := 26000#24 }) =
    some (.idle, 0#16) := by decide

/-- V1: 66 events, 16 pulses, 50200 µs, 7200 µs HIGH. -/
theorem test_V1_counts :
    (txframeTrace ready.protocol 4#16 1 [0x31#8, 0x30#8] [0x30#8, 0x31#8]).length = 66 ∧
    pulseCount (txframeTrace ready.protocol 4#16 1 [0x31#8, 0x30#8] [0x30#8, 0x31#8]) = 16 ∧
    duration (txframeTrace ready.protocol 4#16 1 [0x31#8, 0x30#8] [0x30#8, 0x31#8]) = 50200 ∧
    highTime (wave (txframeTrace ready.protocol 4#16 1 [0x31#8, 0x30#8] [0x30#8, 0x31#8]) none) = 7200 := by decide

/-- V1: the end of the waveform. -/
theorem test_V1_wave :
    (wave (txframeTrace ready.protocol 4#16 1 [0x31#8, 0x30#8] [0x30#8, 0x31#8]) none).drop 22 =
      [(some .high, 400), (some .low, 5800), (some .high, 400), (some .low, 800), (some .high, 800), (some .low, 400),
       (some .high, 800), (some .low, 400), (some .high, 400), (some .low, 26800)] := by decide

/-- V1: TXFRAME itself emits the trace. -/
theorem test_V1_txframe : (txframe [0x31#8, 0x30#8] [0x30#8, 0x31#8] ready).trace =
    txframeTrace ready.protocol 4#16 1 [0x31#8, 0x30#8] [0x30#8, 0x31#8] := by decide

theorem test_W2 : wave [.pinLevel 4#16 .high, .delay 400#24, .pinLevel 4#16 .low, .delay 800#24, .delay 5000#24,
    .pinLevel 4#16 .high, .delay 800#24, .pinLevel 4#16 .low, .delay 400#24] none =
    [(some .high, 400), (some .low, 5800), (some .high, 800), (some .low, 400)] := by decide
theorem test_W3 : wave [.delay 100#24, .pinLevel 4#16 .high, .delay 400#24, .pinLevel 4#16 .low, .delay 800#24] none =
    [(none, 100), (some .high, 400), (some .low, 800)] := by decide
theorem test_W5 : wave [.pinMode 4#16] none = [] := by decide

/-- A pulse length of 0 leaves one LOW segment (W4, 90_conflicts.md C10), here of one frame without symbols. -/
theorem test_W4 : wave (txframeTrace { ready.protocol with plen := 0#16 } 4#16 1 [] []) none = [(some .low, 31000)] := by decide

/-- A word placed for the next step is the one that runs. -/
theorem test_place_word : got State.pin (step (State.reset.withFetchWord 32 0x10000009)) = some 9#16 := by decide

/-- A character placed for the next step is the one whose pulse starts: ONE is 400 µs high, ZERO 800. -/
theorem test_place_symbol :
    got State.hcnt (step (State.reset.withFetchWord 8 0x31)) = some 400#24 ∧
    got State.hcnt (step (State.reset.withFetchWord 8 0x30)) = some 800#24 := by decide

/-! ### For each statement with hypotheses, operands and a state that meet them -/

theorem witness_DecodeOfEncode : (Instr.cfgout 65535#16).wellFormed = true ∧ (Instr.zero 0x32#8).wellFormed = true ∧
    (Instr.zero 0x00#8).wellFormed = true := by decide

theorem witness_EncodeOfDecode : decode (.word 0x5000FFFF#32) = .ok (.setplen 65535#16) ∧
    decode (.char 0xFF#8) = .ok (.zero 0xFF#8) := by decide

theorem witness_IllegalWordsRaiseIllegalOp : (withWords [0x60000001#32]).phase = .idle ∧
    (withWords [0x60000001#32]).hostOps = 0x60000001#32 :: [] ∧ decodeWord 0x60000001#32 = .illegal .setprotoArg := by decide

theorem witness_SymbolsComeOnlyFromCharacters : decodeWord 0x2000FFFF#32 = .ok (.setrep 65535#16) ∧
    (0x31#8 : Char8) = 0x31#8 ∧ (0x32#8 : Char8) ≠ 0x31#8 := by decide

theorem witness_StepRunsHostOperation : ((withWords [0x60000000#32, 0x20000000#32]).phase = .idle ∧
    (withWords [0x60000000#32, 0x20000000#32]).hostOps = 0x60000000#32 :: [0x20000000#32] ∧
    decode (.word 0x60000000#32) = .ok .setproto) ∧ ready.phase = .idle ∧ ready.hostOps = [] := by decide

/-- The first and the last symbol of each section. -/
theorem witness_StepFetchesTheSymbol : (busyAt .addr .hiSet).sub = .hiSet ∧
    ((busyAt .addr .hiSet).phase = .addr ∧ (busyAt .addr .hiSet).addr.toList[(0#6).toNat]? = some 0x30#8 ∧
      (busyAt .addr .hiSet).addr.toList[(41#6).toNat]? = some 0x30#8) ∧
    ((busyAt .cmd .hiSet).phase = .cmd ∧ (busyAt .cmd .hiSet).code.toList[(0#6).toNat]? = some 0x30#8 ∧
      (busyAt .cmd .hiSet).code.toList[(25#6).toNat]? = some 0x30#8) := by decide

theorem witness_FourStepsRunTheSymbol :
    (∃ s : State, s.sub = .hiSet ∧ s.phase = .addr ∧ s.idx = 41#6 ∧ s.addr.toList[s.idx.toNat]? = some 0x30#8) ∧
    (∃ s : State, s.sub = .hiSet ∧ s.phase = .cmd ∧ s.idx = 25#6 ∧ s.code.toList[s.idx.toNat]? = some 0x30#8) :=
  ⟨⟨{ busyAt .addr .hiSet with idx := 41#6 }, by decide⟩, ⟨{ busyAt .cmd .hiSet with idx := 25#6 }, by decide⟩⟩

theorem witness_FourStepsRunOneSyncPulse :
    (∃ s : State, s.sub = .hiSet ∧ s.phase = .sync ∧ s.scnt = 1#4) ∧ (∃ s : State, s.sub = .hiSet ∧ s.phase = .sync ∧ s.scnt = 12#4) ∧
    (busyAt .gaps .hiSet).phase = .gaps ∧ (busyAt .gapr .hiSet).phase = .gapr ∧ (busyAt .gapr .hiSet).rep = 1#16 :=
  ⟨⟨{ busyAt .sync .hiSet with scnt := 1#4 }, by decide⟩, ⟨{ busyAt .sync .hiSet with scnt := 12#4 }, by decide⟩, by decide⟩

/-- A busy step with a next state, at the last step of a send. -/
theorem witness_busy_step : (busyAt .gapr .hiSet).phase ≠ .idle ∧ ∃ t, step (busyAt .gapr .hiSet) = .next t :=
  ⟨by decide, _, rfl⟩

/-- The last clause: SETREP 3 and then SEND of a command's letter, in a run that has not gone wrong. -/
theorem witness_SetrepIsUsedUntilChanged : ((∀ n, Instr.setproto ≠ .setrep n) ∧ ∃ t, exec .setproto ready = .next t) ∧
    ((busyAt .gapr .hiSet).phase ≠ .idle ∧ ∃ t, step (busyAt .gapr .hiSet) = .next t) ∧
    (List.replicate 63 charOne).length ≤ 63 ∧ ([] : List Char8).length ≤ 63 ∧ ready.phase = .idle ∧ ready.pinSet = true ∧
    ready.err = 0#5 ∧
    (∃ code, lkcmd 0x6F#8 = some code) ∧
    ((withWords [0x2000#16 ++ 3#16, 0x400000#24 ++ 0x6F#8]).phase = .idle ∧
      (withWords [0x2000#16 ++ 3#16, 0x400000#24 ++ 0x6F#8]).hostOps = (0x2000#16 ++ 3#16) :: (0x400000#24 ++ 0x6F#8) :: [] ∧
      (withWords [0x2000#16 ++ 3#16, 0x400000#24 ++ 0x6F#8]).addrSet = true ∧
      (withWords [0x2000#16 ++ 3#16, 0x400000#24 ++ 0x6F#8]).pinSet = true ∧
      ¬ Safety.goneWrong (withWords [0x2000#16 ++ 3#16, 0x400000#24 ++ 0x6F#8])) :=
  ⟨⟨fun _ => nofun, _, rfl⟩, witness_busy_step, by decide, by decide, by decide, by decide, by decide, ⟨_, rfl⟩, rfl, rfl, rfl, rfl,
    fun h => h rfl⟩

theorem witness_SeladdrStoresOrFaults : 3 ≤ (3#16 : Half).toNat ∧ 3 ≤ (65535#16 : Half).toNat := by decide

theorem witness_SendAcceptedStartsTheFrame : ready.addrSet = true ∧ ready.pinSet = true ∧ ready.repeatCount ≠ 0#16 ∧
    ({ ready with repeatCount := 0#16 } : State).repeatCount = 0#16 := by decide

theorem witness_SendChecksInOrder :
    ((0x00#8 : Char8) ≠ 0x6F#8 ∧ (0x00#8 : Char8) ≠ 0x6C#8 ∧ (0x00#8 : Char8) ≠ 0x6D#8 ∧ (0x00#8 : Char8) ≠ 0x68#8) ∧
    State.reset.addrSet = false ∧ ({ ready with pinSet := false } : State).addrSet = true ∧
    ({ ready with pinSet := false } : State).pinSet = false := by decide

theorem witness_SetplenWritesOnlyPlen : (busyAt .gapr .hiSet).phase ≠ .idle ∧ ∃ t, step (busyAt .gapr .hiSet) = .next t :=
  witness_busy_step

theorem witness_SetprotoRestoresTheDefault : (busyAt .gapr .hiSet).phase ≠ .idle ∧ ∃ t, step (busyAt .gapr .hiSet) = .next t :=
  witness_busy_step

/-- Both frames of a send of two, both protocols, the first and the last pulse of each part, and both kinds of symbol. -/
theorem witness_SetplenScalesOnlyPulseHolds : (0 < 2 ∧ 0 = 0 * (4 * (12 + 2 + 2) + 2)) ∧ (1 < 2 ∧ 66 = 1 * (4 * (12 + 2 + 2) + 2)) ∧
    (ready.protocol = ready.protocol ∨ ready.protocol = ({ ready with plen := 350#16 } : State).protocol) ∧
    0 < 12 ∧ 11 < 12 ∧ [0x31#8, 0x30#8][0]? = some (0x31#8 : Char8) ∧ [0x31#8, 0x30#8][1]? = some (0x30#8 : Char8) ∧
    (0x30#8 : Char8) ≠ 0x31#8 := by decide

theorem witness_OneSendsTheOneTiming : (ready.plen = 400#16 ∧ ready.oneH = 1#8 ∧ ready.oneL = 2#8) ∧
    ((busyAt .addr .hiSet).phase = .addr ∧ [0x31#8][(busyAt .addr .hiSet).idx.toNat]? = some 0x31#8) ∧
    ((busyAt .cmd .hiSet).phase = .cmd ∧ [0x31#8][(busyAt .cmd .hiSet).idx.toNat]? = some 0x31#8) := by decide

theorem witness_ZeroSendsTheZeroTiming : (0x78#8 : Char8) ≠ 0x31#8 ∧
    (ready.plen = 400#16 ∧ ready.zeroH = 2#8 ∧ ready.zeroL = 1#8) ∧
    ((busyAt .addr .hiSet).phase = .addr ∧ [0x78#8][(busyAt .addr .hiSet).idx.toNat]? = some 0x78#8) ∧
    ((busyAt .cmd .hiSet).phase = .cmd ∧ [0x30#8][(busyAt .cmd .hiSet).idx.toNat]? = some 0x30#8) := by decide

theorem witness_FaultingStepChangesOnlyErr :
    ∃ t, step (withWords [0x30000003#32]) = .next t ∧ t.err ≠ (withWords [0x30000003#32]).err :=
  ⟨_, rfl, by decide⟩

/-- An idle step and a busy step with a next state. -/
theorem witness_any_step : (∃ t, step (withWords [0x40000078#32]) = .next t) ∧ ∃ t, step (busyAt .gapr .hiSet) = .next t :=
  ⟨⟨_, rfl⟩, _, rfl⟩

theorem witness_ErrIsStickyAndNeverRead :
    ((∃ t, step (withWords [0x40000078#32]) = .next t) ∧ ∃ t, step (busyAt .gapr .hiSet) = .next t) ∧
    ∃ t, stepRun 2 (withWords [0x40000078#32, 0x10010004#32]) = .next t := ⟨witness_any_step, _, rfl⟩

/-- A gone-wrong state that takes a step, and a run that ends in a final state. -/
theorem witness_GoneWrongIsNeverFinal :
    (Safety.goneWrong { ready with err := 0b10000#5 } ∧ ∃ t, step { ready with err := 0b10000#5 } = .next t) ∧
    ∃ t, stepRun 2 (withWords [0x10000004#32, 0x50000000#32]) = .next t ∧ Safety.finalState t :=
  ⟨⟨by unfold Safety.goneWrong; decide, _, rfl⟩, _, rfl, ⟨rfl, rfl⟩, fun h => h rfl⟩

theorem witness_TraceOnlyGrowsAndIsNeverRead :
    (∃ t, step (withWords [0x40000078#32]) = .next t) ∧ ∃ t, step (busyAt .gapr .hiSet) = .next t := witness_any_step

/-- A step that writes LEVEL, and one that leaves it. -/
theorem witness_LevelIsNeverRead :
    (∃ t, step (withWords [0x10000004#32]) = .next t) ∧ ∃ t, step (busyAt .gapr .hiSet) = .next t :=
  ⟨⟨_, rfl⟩, _, rfl⟩

/-- An instruction that changes each register, where one does. -/
theorem witness_RegistersAreWrittenByTheirWriters :
    (∃ t, exec (.cfgout 5#16) ready = .next t ∧ t.pin ≠ ready.pin ∧ t.trace ≠ ready.trace) ∧
    (∃ t, exec (.setrep 65535#16) ready = .next t ∧ t.repeatCount ≠ ready.repeatCount) ∧
    (∃ t, exec (.setplen 0#16) ready = .next t ∧ t.plen ≠ ready.plen) ∧
    (∃ t, exec .setproto { ready with oneH := 9#8 } = .next t ∧ t.oneTiming ≠ ({ ready with oneH := 9#8 } : State).oneTiming) ∧
    (∃ t, exec (.seladdr 2#16) { ready with addrSet := false } = .next t ∧
      t.addrSet ≠ ({ ready with addrSet := false } : State).addrSet) ∧
    (∃ t, exec (.seladdr 3#16) ready = .next t ∧ t.err ≠ ready.err) ∧
    (∃ t, exec (.send 0x6C#8) ready = .next t ∧ t.phase ≠ ready.phase) ∧
    (∃ t, exec .one { ready with hcnt := 1#24 } = .next t ∧ t.hcnt ≠ ({ ready with hcnt := 1#24 } : State).hcnt) :=
  ⟨⟨_, rfl, by decide⟩, ⟨_, rfl, by decide⟩, ⟨_, rfl, by decide⟩, ⟨_, rfl, by decide⟩, ⟨_, rfl, by decide⟩, ⟨_, rfl, by decide⟩,
    ⟨_, rfl, nofun⟩, ⟨_, rfl, by decide⟩⟩

theorem witness_LkcmdMatchesTheFirstCharacter :
    ((cmdName 0).head? = some 0x6F#8 ∧ ∀ j : Fin 4, j < 0 → (cmdName j).head? ≠ some 0x6F#8) ∧
    ((cmdName 3).head? = some 0x68#8 ∧ ∀ j : Fin 4, j < 3 → (cmdName j).head? ≠ some 0x68#8) ∧
    (∀ k : Fin 4, (cmdName k).head? ≠ some 0x4F#8) ∧ (lkcmd 0x00#8).isNone = true := by decide

theorem witness_LkcmdResultsAreCodes : (∃ code, lkcmd 0x6F#8 = some code) ∧ ∃ code, lkcmd 0x68#8 = some code :=
  ⟨⟨_, rfl⟩, _, rfl⟩

theorem witness_LkaddrResultsAreAddresses : (2#16 : Half).toNat < 3 ∧ 3 ≤ (3#16 : Half).toNat ∧
    (lkaddr 3#16).isNone = true ∧ ∃ a, lkaddr 2#16 = some a :=
  ⟨by decide, by decide, by decide, _, rfl⟩

theorem witness_TxframeEmitsTheFrames : State.reset.pinSet = false ∧ ready.pinSet = true ∧ ready.repeatCount ≠ 0#16 ∧
    ({ ready with repeatCount := 0#16 } : State).repeatCount = 0#16 ∧ ¬ Safety.goneWrong (txframe [0x31#8] [0x30#8] ready) ∧
    ¬ Safety.goneWrong (txframe [0x31#8] [0x30#8] { ready with repeatCount := 0#16 }) :=
  ⟨rfl, rfl, by decide, rfl, fun h => h (by decide), fun h => h (by decide)⟩

theorem witness_RepeatCountGivesThatManyFrames :
    (({ ready with repeatCount := 0#16 } : State).pinSet = true ∧ ({ ready with repeatCount := 0#16 } : State).repeatCount = 0#16 ∧
      ¬ Safety.goneWrong (txframe [0x31#8] [0x30#8] { ready with repeatCount := 0#16 })) ∧
    (ready.pinSet = true ∧ ¬ Safety.goneWrong (txframe [0x31#8] [0x30#8] ready)) ∧
    ∃ t, seqStep [] [] (busyAt .gaps .hiSet) = .next t :=
  ⟨⟨rfl, rfl, fun h => h (by decide)⟩, ⟨rfl, fun h => h (by decide)⟩, _, rfl⟩

theorem witness_FrameWaveformSegments : ready.protocol.plen ≠ 0#16 ∧ ready.protocol.sync.high ≠ 0#8 ∧
    ready.protocol.sync.low ≠ 0#8 ∧ ready.protocol.zero.high ≠ 0#8 ∧ ready.protocol.zero.low ≠ 0#8 ∧
    ready.protocol.one.high ≠ 0#8 ∧ ready.protocol.one.low ≠ 0#8 ∧ ({ ready.protocol with plen := 0#16 } : Protocol).plen = 0#16 := by
  decide

theorem witness_WaveformIsMerged :
    (none, 100) ∈ wave [.delay 100#24, .pinLevel 4#16 .high, .delay 400#24] none ∧
    wave [.delay 100#24, .pinLevel 4#16 .high, .delay 400#24] none = [] ++ (none, 100) :: (some .high, 400) :: [] := by decide

theorem witness_RaiseSetsOnlyItsBit : 0 < 5 ∧ 4 < 5 := by decide

theorem witness_SequencerEmitsOneEventPerStep :
    ((busyAt .sync .hiSet).phase ≠ .idle ∧ ∃ t, step (busyAt .sync .hiSet) = .next t) ∧
    ((busyAt .cmd .loSet).phase ≠ .idle ∧ ∃ t, step (busyAt .cmd .loSet) = .next t) ∧
    ((busyAt .addr .loHold).phase ≠ .idle ∧ ∃ t, step (busyAt .addr .loHold) = .next t) :=
  ⟨⟨by decide, _, rfl⟩, ⟨by decide, _, rfl⟩, by decide, _, rfl⟩

theorem witness_SequencerLeavesTheConfiguration :
    (busyAt .gapr .hiSet).phase ≠ .idle ∧ ∃ t, step (busyAt .gapr .hiSet) = .next t := witness_busy_step

/-- A step in every phase, at the step that leaves it where a pulse phase has one; and a SEND that is accepted, and one with
REPEAT 0, which leaves PHASE at IDLE. -/
theorem witness_SequencerPhaseTransitions :
    (∃ t, step { busyAt .sync .loHold with scnt := 1#4 } = .next t) ∧ (∃ t, step (busyAt .gaps .hiSet) = .next t) ∧
    (∃ t, step { busyAt .addr .loHold with idx := 41#6 } = .next t) ∧
    (∃ t, step { busyAt .cmd .loHold with idx := 25#6 } = .next t) ∧ (∃ t, step (busyAt .gapr .hiSet) = .next t) ∧
    (∃ t, step (withWords [0x4000006F#32]) = .next t ∧ t.phase = .sync) ∧
    (∃ t, step { withWords [0x4000006F#32] with repeatCount := 0#16 } = .next t ∧ t.phase = .idle) ∧
    (∃ t, seqStep [] [] (busyAt .gaps .hiSet) = .next t) ∧ (∃ t, seqStep [charOne] [] (busyAt .addr .loHold) = .next t) :=
  ⟨⟨_, rfl⟩, ⟨_, rfl⟩, ⟨_, rfl⟩, ⟨_, rfl⟩, ⟨_, rfl⟩, ⟨_, rfl, rfl⟩, ⟨_, rfl, rfl⟩, ⟨_, rfl⟩, _, rfl⟩

/-- The gap; and the last address pulse of one symbol, and of 63. -/
theorem witness_EmptySectionsAreSkipped : (busyAt .gaps .hiSet).phase = .gaps ∧
    ((busyAt .addr .loHold).phase = .addr ∧ (busyAt .addr .loHold).sub = .loHold ∧
      ((busyAt .addr .loHold).idx + 1#6).toNat = [charOne].length) ∧
    (({ busyAt .addr .loHold with idx := 62#6 } : State).idx + 1#6).toNat = (List.replicate 63 charOne).length := by decide

/-- A send of one frame on strings of 63 symbols and of none, whose end, after the steps counted, has not gone wrong. -/
theorem witness_SequencerRefinesTxframe : (List.replicate 63 charOne).length ≤ 63 ∧ ([] : List Char8).length ≤ 63 ∧
    ready.phase = .idle ∧ ready.pinSet = true ∧ 0 < ready.repeatCount.toNat * (4 * (12 + 63 + 0) + 2) ∧
    ∀ t, seqRun (List.replicate 63 charOne) [] (ready.repeatCount.toNat * (4 * (12 + 63 + 0) + 2)) (seqStart ready) = .next t →
      ¬ Safety.goneWrong t := by
  refine ⟨by decide, by decide, rfl, rfl, by decide, fun t h hg => hg ?_⟩
  have e := seqRun_commute _ (unread_err 0#5) (List.replicate 63 charOne) []
    (ready.repeatCount.toNat * (4 * (12 + 63 + 0) + 2)) (seqStart ready)
  rw [show ({ seqStart ready with err := 0#5 } : State) = seqStart ready from rfl, h] at e
  exact congrArg State.err (Host.Outcome.next.inj e)

/-- The three checks, each failing, and a SEND that passes them with REPEAT 1 and with REPEAT 0, in a run that has not gone
wrong. -/
theorem witness_SendRunsItsFramesToIdle :
    ((withWords [0x400000#24 ++ 0x4F#8]).phase = .idle ∧
      (withWords [0x400000#24 ++ 0x4F#8]).hostOps = (0x400000#24 ++ 0x4F#8) :: [] ∧ (lkcmd 0x4F#8).isNone = true) ∧
    (∃ code, lkcmd 0x6F#8 = some code) ∧
    (∀ s : State, s ∈ [withWords [0x400000#24 ++ 0x6F#8], { withWords [0x400000#24 ++ 0x6F#8] with repeatCount := 0#16 }] →
      s.phase = .idle ∧ s.hostOps = (0x400000#24 ++ 0x6F#8) :: [] ∧ s.addrSet = true ∧ s.pinSet = true ∧
      s.err = 0#5 ∧ s.protocol = ⟨400#16, ⟨1#8, 2#8⟩, ⟨2#8, 1#8⟩, ⟨1#8, 2#8⟩⟩) ∧
    ({ withWords [0x400000#24 ++ 0x6F#8] with addrSet := false } : State).addrSet = false ∧
    ({ withWords [0x400000#24 ++ 0x6F#8] with pinSet := false } : State).addrSet = true ∧
    ({ withWords [0x400000#24 ++ 0x6F#8] with pinSet := false } : State).pinSet = false := by
  refine ⟨by decide, ⟨_, rfl⟩, ?_, by decide, by decide, by decide⟩
  intro s hs
  simp only [List.mem_cons, List.not_mem_nil, or_false] at hs
  obtain rfl | rfl := hs <;> decide

/-- A state in the 5000 µs gap of a send of the catalog's first address and code. -/
def inGap : State :=
  { busyAt .gaps .hiSet with
    addr := addrRom 0, code := cmdCode 0, level := some .low, trace := [.pinLevel 4#16 .low], gcnt := 5000#24 }

/-- A state in the high hold of the first sync pulse of the same send. -/
def inPulse : State :=
  { busyAt .sync .hiHold with
    scnt := 12#4, addr := addrRom 0, code := cmdCode 0, level := some .high, trace := [.pinLevel 4#16 .high]
    hcnt := 400#24, lcnt := 800#24 }

theorem inGap_inv : Safety.Inv inGap where
  selected _ := ⟨rfl, rfl⟩
  repeatsLeft _ := by decide
  syncLeft := nofun
  addrIndex := nofun
  cmdIndex := nofun
  levelTraced := rfl
  levelRest _ := by decide
  levelPulse h := absurd trivial h
  units := by decide
  counters := ⟨rfl, rfl, rfl⟩
  addrFromCatalog _ := ⟨0, rfl⟩
  codeFromCatalog _ := ⟨0, rfl⟩

theorem inPulse_inv : Safety.Inv inPulse where
  selected _ := ⟨rfl, rfl⟩
  repeatsLeft _ := by decide
  syncLeft _ := by decide
  addrIndex := nofun
  cmdIndex := nofun
  levelTraced := rfl
  levelRest := nofun
  levelPulse _ := rfl
  units := by decide
  counters := ⟨rfl, by decide, by decide⟩
  addrFromCatalog _ := ⟨0, rfl⟩
  codeFromCatalog _ := ⟨0, rfl⟩

theorem witness_StepKeepsTheInvariant :
    (Safety.Inv inGap ∧ ∃ t, step inGap = .next t) ∧ (Safety.Inv inPulse ∧ ∃ t, step inPulse = .next t) :=
  ⟨⟨inGap_inv, _, (step_busy inGap nofun).trans (seqStep_gaps _ _ inGap rfl)⟩, inPulse_inv, _, rfl⟩

theorem witness_SendCountsDownToItsEnd : (Safety.Inv inGap ∧ inGap.phase ≠ .idle) ∧ Safety.Inv inPulse :=
  ⟨⟨inGap_inv, nofun⟩, inPulse_inv⟩

/-- A hold in its first and in its last tick, a hold of no length, and a step that takes no tick. -/
theorem witness_HoldCountsDownByTicks :
    (step = step ∨ ∃ A C, step = seqStep A C) ∧ (seqStep [] [] = step ∨ ∃ A C, seqStep [] [] = seqStep A C) ∧
    (holdCounter inGap = some 5000#24 ∧ 0 < (5000#24 : Dur).toNat ∧ 4999 < (5000#24 : Dur).toNat) ∧
    holdCounter inPulse = some 400#24 ∧ holdCounter (busyAt .cmd .loHold) = some 0#24 ∧
    ((busyAt .cmd .loSet).phase ≠ .idle ∧ holdCounter (busyAt .cmd .loSet) = none ∧ ∃ t, step (busyAt .cmd .loSet) = .next t) :=
  ⟨.inl rfl, .inr ⟨_, _, rfl⟩, ⟨rfl, by decide, by decide⟩, rfl, rfl, nofun, rfl, _, rfl⟩

theorem witness_PulsePartsLastTheirTicks :
    curTiming [] [] (busyAt .sync .hiSet) = some ⟨1#8, 2#8⟩ ∧ (busyAt .sync .hiSet).sub = .hiSet ∧
    (400#24 : Dur).toNat = (busyAt .sync .hiSet).plen.toNat * (1#8 : Units).toNat ∧
    (800#24 : Dur).toNat = (busyAt .sync .hiSet).plen.toNat * (2#8 : Units).toNat ∧
    399 < (400#24 : Dur).toNat ∧ 799 < (800#24 : Dur).toNat := by
  refine ⟨rfl, rfl, ?_, ?_, ?_, ?_⟩ <;> decide

theorem witness_TicksRefineTheSteps : ∃ t, stepRun 1 (busyAt .gapr .hiSet) = .next t ∧ ¬ Safety.goneWrong t :=
  ⟨_, rfl, fun h => h (by decide)⟩

/-- The last tick of a hold makes the step's changes and emits the whole delay (R157): HCNT 1 after 399 of 400 ticks. -/
theorem test_last_tick :
    tickStep step ⟨{ inPulse with hcnt := 1#24 }, 399#24, 7⟩ =
      .next ⟨{ inPulse with hcnt := 0#24, sub := .loSet, trace := inPulse.trace ++ [.delay 400#24] }, 0#24, 8⟩ := by
  rfl

/-- Any tick before it changes the counter alone. -/
theorem test_inner_tick :
    tickStep step ⟨inPulse, 0#24, 7⟩ = .next ⟨{ inPulse with hcnt := 399#24 }, 1#24, 8⟩ := by
  rfl

end Sys2Proof.Tests
end

/-! # Proofs of 40_pulse_encoder.md: TXPULSE, SETPLEN and SETPROTO -/

namespace Sys2Proof.Machine

/-! ### The product of a hold and the two instruction words -/

/-- A hold's product fits the 24 bits of a duration (R125). -/
theorem pulseDur_toNat (plen : Half) (u : Units) : (pulseDur plen u).toNat = plen.toNat * u.toNat := by
  have hle : plen.toNat * u.toNat ≤ 65535 * 255 := Nat.mul_le_mul (by omega) (by omega)
  have hp : plen.toNat % 2 ^ 24 = plen.toNat := Nat.mod_eq_of_lt (by omega)
  have hu : u.toNat % 2 ^ 24 = u.toNat := Nat.mod_eq_of_lt (by omega)
  rw [pulseDur, BitVec.toNat_mul, BitVec.toNat_setWidth, BitVec.toNat_setWidth, hp, hu]
  exact Nat.mod_eq_of_lt (by omega)

/-- Opcode 0x5 with `Z` zero is read as SETPLEN of the operand (R92). -/
theorem decodeWord_setplen (us : Half) : decodeWord (formatH 0x5#4 us) = .ok (.setplen us) := by
  simp [decodeWord]

/-- The word of SETPLEN, its upper half written as one number. -/
theorem formatH_setplen (us : Half) : formatH 0x5#4 us = 0x5000#16 ++ us := rfl

/-! ### What the two instructions write -/

theorem exec_setplen (us : Half) (s : State) : exec (.setplen us) s = .next { s with plen := us } := rfl

theorem exec_setproto (s : State) : exec .setproto s = .next { s with
    plen := 400#16, syncH := 1#8, syncL := 2#8, zeroH := 2#8, zeroL := 1#8, oneH := 1#8, oneL := 2#8 } := rfl

/-- A busy step takes no command word and leaves PLEN. -/
theorem step_busy_hostOps_plen (s t : State) (hp : s.phase ≠ .idle) (h : step s = .next t) :
    t.hostOps = s.hostOps ∧ t.plen = s.plen := by
  rw [step_busy s hp] at h
  obtain ⟨_, _, _, _, _, _, _, _, rfl⟩ := seqStep_frame _ _ s t hp h
  exact ⟨rfl, rfl⟩

/-! ### Where a part of a trace stands: `X <+: L.drop n` says that `X` stands in `L` from position `n` -/

/-- A part of a part stands where the two positions add up to. -/
theorem isPrefix_drop_trans {α : Type} {X Y L : List α} {i n : Nat} (hX : X <+: Y.drop i) (hY : Y <+: L.drop n) :
    X <+: L.drop (n + i) := by
  rw [← List.drop_drop]
  exact hX.trans (hY.drop i)

/-- The middle of three parts stands at the length of the first. -/
theorem isPrefix_drop_middle {α : Type} {L : List α} {n : Nat} (U X V : List α) (hL : L = U ++ X ++ V) (hn : n = U.length) :
    X <+: L.drop n := by
  rw [hL, hn, List.append_assoc, List.drop_left]
  exact List.prefix_append X V

/-- Block `j` of blocks of `m` elements each stands at `m * j`. -/
theorem block_prefix_drop_flatten {α : Type} {m : Nat} {Bs : List (List α)} (hm : ∀ B ∈ Bs, B.length = m)
    {j : Nat} {B : List α} (hj : Bs[j]? = some B) : B <+: Bs.flatten.drop (m * j) := by
  induction Bs generalizing j with
  | nil => simp at hj
  | cons B₀ Bs ih =>
    have h0 : B₀.length = m := hm B₀ List.mem_cons_self
    cases j with
    | zero =>
      cases hj
      exact List.prefix_append B Bs.flatten
    | succ j =>
      have hB : B <+: Bs.flatten.drop (m * j) := ih (fun X hX => hm X (List.mem_cons_of_mem _ hX)) hj
      have hpos : m * (j + 1) = B₀.length + m * j := by rw [h0, Nat.mul_succ, Nat.add_comm]
      rwa [hpos, List.flatten_cons, ← List.drop_drop, List.drop_left]

/-! ### The parts of a frame and their lengths -/

@[simp] theorem pulseEvents_length (P : Protocol) (p : Half) (t : PulseTiming) : (pulseEvents P p t).length = 4 := rfl

@[simp] theorem bitsEvents_length (P : Protocol) (p : Half) (S : List Char8) : (bitsEvents P p S).length = 4 * S.length := by
  simp [bitsEvents, List.length_flatMap, Nat.mul_comm]

/-- The twelve sync pulses of a frame. -/
def syncEvents (P : Protocol) (p : Half) : List Event := (List.replicate 12 (pulseEvents P p P.sync)).flatten

@[simp] theorem syncEvents_length (P : Protocol) (p : Half) : (syncEvents P p).length = 48 := rfl

theorem frameEvents_eq (P : Protocol) (p : Half) (A C : List Char8) : frameEvents P p A C =
    syncEvents P p ++ [.delay 5000#24] ++ bitsEvents P p A ++ bitsEvents P p C ++ [.delay 26000#24] := rfl

@[simp] theorem frameEvents_length (P : Protocol) (p : Half) (A C : List Char8) :
    (frameEvents P p A C).length = 4 * (12 + A.length + C.length) + 2 := by
  simp [frameEvents_eq]
  omega

@[simp] theorem txframeTrace_length (P : Protocol) (p : Half) (r : Nat) (A C : List Char8) :
    (txframeTrace P p r A C).length = r * (4 * (12 + A.length + C.length) + 2) := by
  simp [txframeTrace]

/-! ### Where the parts stand -/

section

variable (P : Protocol) (p : Half) (A C : List Char8)

theorem pulse_prefix_syncEvents {j : Nat} (hj : j < 12) : pulseEvents P p P.sync <+: (syncEvents P p).drop (4 * j) :=
  block_prefix_drop_flatten (fun _ hB => List.eq_of_mem_replicate hB ▸ pulseEvents_length P p P.sync)
    (List.getElem?_replicate_of_lt hj)

theorem pulse_prefix_bitsEvents {S : List Char8} {j : Nat} {ch : Char8} (hj : S[j]? = some ch) :
    pulseEvents P p (P.timing ch) <+: (bitsEvents P p S).drop (4 * j) := by
  rw [bitsEvents, List.flatMap_def]
  refine block_prefix_drop_flatten (fun B hB => ?_) (by simp [hj])
  obtain ⟨c, -, rfl⟩ := List.mem_map.mp hB
  exact pulseEvents_length P p (P.timing c)

theorem syncEvents_prefix_frame : syncEvents P p <+: (frameEvents P p A C).drop 0 :=
  isPrefix_drop_middle [] (syncEvents P p) ([.delay 5000#24] ++ bitsEvents P p A ++ bitsEvents P p C ++ [.delay 26000#24])
    (by simp [frameEvents_eq]) rfl

theorem sectionGap_prefix_frame : [.delay 5000#24] <+: (frameEvents P p A C).drop 48 :=
  isPrefix_drop_middle (syncEvents P p) [.delay 5000#24] (bitsEvents P p A ++ bitsEvents P p C ++ [.delay 26000#24])
    (by simp [frameEvents_eq]) rfl

theorem addrEvents_prefix_frame : bitsEvents P p A <+: (frameEvents P p A C).drop 49 :=
  isPrefix_drop_middle (syncEvents P p ++ [.delay 5000#24]) (bitsEvents P p A) (bitsEvents P p C ++ [.delay 26000#24])
    (by simp [frameEvents_eq]) rfl

theorem cmdEvents_prefix_frame : bitsEvents P p C <+: (frameEvents P p A C).drop (49 + 4 * A.length) :=
  isPrefix_drop_middle (syncEvents P p ++ [.delay 5000#24] ++ bitsEvents P p A) (bitsEvents P p C) [.delay 26000#24]
    (frameEvents_eq P p A C) (by simp; omega)

theorem repeatGap_prefix_frame :
    [.delay 26000#24] <+: (frameEvents P p A C).drop (49 + 4 * A.length + 4 * C.length) :=
  isPrefix_drop_middle (syncEvents P p ++ [.delay 5000#24] ++ bitsEvents P p A ++ bitsEvents P p C) [.delay 26000#24] []
    (by simp [frameEvents_eq]) (by simp; omega)

/-- A part of a frame stands in each frame of the trace, at its position in the frame. -/
theorem isPrefix_txframeTrace {X : List Event} {r k i m : Nat} (hX : X <+: (frameEvents P p A C).drop i) (hk : k < r)
    (hm : m = k * (4 * (12 + A.length + C.length) + 2) + i) : X <+: (txframeTrace P p r A C).drop m := by
  have hF : frameEvents P p A C <+: (txframeTrace P p r A C).drop ((4 * (12 + A.length + C.length) + 2) * k) :=
    block_prefix_drop_flatten (fun _ hB => List.eq_of_mem_replicate hB ▸ frameEvents_length P p A C)
      (List.getElem?_replicate_of_lt hk)
  rw [hm, Nat.mul_comm k]
  exact isPrefix_drop_trans hX hF

end

/-! ### Reading a trace at a position -/

theorem take_drop_of_pulse_prefix {P : Protocol} {p : Half} {t : PulseTiming} {L : List Event} {n : Nat}
    (h : pulseEvents P p t <+: L.drop n) : (L.drop n).take 4 = pulseEvents P p t :=
  (List.prefix_iff_eq_take.mp h).symm

theorem take_drop_of_symbol_prefix {P : Protocol} {p : Half} {ch : Char8} {L : List Event} {n : Nat}
    (h : pulseEvents P p (P.timing ch) <+: L.drop n) :
    (L.drop n).take 4 = if ch = 0x31#8 then pulseEvents P p P.one else pulseEvents P p P.zero := by
  rw [take_drop_of_pulse_prefix h, Protocol.timing]
  exact apply_ite (pulseEvents P p) (ch = charOne) P.one P.zero

theorem getElem?_of_singleton_prefix {e : Event} {L : List Event} {n : Nat} (h : [e] <+: L.drop n) : L[n]? = some e := by
  obtain ⟨rest, hrest⟩ := h
  rw [← List.head?_drop, ← hrest]
  rfl

/-- The trace of a send by position, for any protocol: frame `k` starts at `k` times the length of a frame (R149). -/
theorem txframeTrace_by_position (P : Protocol) (p : Half) (r : Nat) (A C : List Char8) (k n : Nat) (hk : k < r)
    (hn : n = k * (4 * (12 + A.length + C.length) + 2)) :
    (∀ j, j < 12 → ((txframeTrace P p r A C).drop (n + 4 * j)).take 4 = pulseEvents P p P.sync) ∧
    (txframeTrace P p r A C)[n + 48]? = some (.delay 5000#24) ∧
    (∀ j ch, A[j]? = some ch → ((txframeTrace P p r A C).drop (n + 49 + 4 * j)).take 4 =
      if ch = 0x31#8 then pulseEvents P p P.one else pulseEvents P p P.zero) ∧
    (∀ j ch, C[j]? = some ch → ((txframeTrace P p r A C).drop (n + 49 + 4 * A.length + 4 * j)).take 4 =
      if ch = 0x31#8 then pulseEvents P p P.one else pulseEvents P p P.zero) ∧
    (txframeTrace P p r A C)[n + 49 + 4 * A.length + 4 * C.length]? = some (.delay 26000#24) := by
  refine ⟨fun j hj => ?_, ?_, fun j ch hch => ?_, fun j ch hch => ?_, ?_⟩
  · have h := isPrefix_drop_trans (pulse_prefix_syncEvents P p hj) (syncEvents_prefix_frame P p A C)
    exact take_drop_of_pulse_prefix (isPrefix_txframeTrace P p A C h hk (by omega))
  · exact getElem?_of_singleton_prefix (isPrefix_txframeTrace P p A C (sectionGap_prefix_frame P p A C) hk (by omega))
  · have h := isPrefix_drop_trans (pulse_prefix_bitsEvents P p hch) (addrEvents_prefix_frame P p A C)
    exact take_drop_of_symbol_prefix (isPrefix_txframeTrace P p A C h hk (by omega))
  · have h := isPrefix_drop_trans (pulse_prefix_bitsEvents P p hch) (cmdEvents_prefix_frame P p A C)
    exact take_drop_of_symbol_prefix (isPrefix_txframeTrace P p A C h hk (by omega))
  · exact getElem?_of_singleton_prefix (isPrefix_txframeTrace P p A C (repeatGap_prefix_frame P p A C) hk (by omega))

/-! ### The obligations -/

/-- Settles O19: each part of a frame stands at its position whatever the protocol, and SETPLEN changes PLEN alone. -/
theorem setplenScalesOnlyPulseHolds : Obligations.SetplenScalesOnlyPulseHolds := by
  intro s us r A C
  refine ⟨_, exec_setplen us s, rfl, rfl, rfl, rfl, rfl, rfl, rfl, rfl, fun P hP => ?_⟩
  refine ⟨txframeTrace_length P s.pin r A C, fun k n hk hn => ?_⟩
  have h := txframeTrace_by_position P s.pin r A C k n hk hn
  rcases hP with rfl | rfl
  · exact h
  · exact h

/-- Settles O20: the two Delay operands are the products of `pulseDur`, which fit their 24 bits. -/
theorem txpulseEmitsFourEvents : Obligations.TxpulseEmitsFourEvents := fun t s =>
  ⟨pulseDur s.plen t.high, pulseDur s.plen t.low, pulseDur_toNat s.plen t.high, pulseDur_toNat s.plen t.low, txpulse_eq t s⟩

/-- Settles O17: the word by its fields, the write by exec, and the busy step by its frame. -/
theorem setplenWritesOnlyPlen : Obligations.SetplenWritesOnlyPlen := by
  refine ⟨fun us s => ⟨?_, exec_setplen us s⟩, step_busy_hostOps_plen⟩
  rw [← formatH_setplen]
  exact decodeWord_setplen us

/-- Settles O18: SETPROTO writes constants to all seven registers, so what SETPLEN or SETPROTO left in them is lost. -/
theorem setprotoRestoresTheDefault : Obligations.SetprotoRestoresTheDefault := by
  refine ⟨by decide, exec_setproto, fun s => ?_, fun us s => ?_, fun s t hp h => (step_busy_hostOps_plen s t hp h).1⟩
  · exact ⟨_, exec_setproto s, exec_setproto _, rfl⟩
  · exact ⟨_, exec_setplen us s, exec_setproto _⟩

end Sys2Proof.Machine

/-! # Proofs of 41_bitstring_transmitter.md: ONE and ZERO -/

namespace Sys2Proof.Machine

/-! ### How a character is read -/

@[simp] theorem decode_char_one : decode (.char charOne) = .ok .one := rfl

theorem decode_char_of_ne {ch : Char8} (h : ch ≠ charOne) : decode (.char ch) = .ok (.zero ch) := by
  rw [decode, decodeSymbol, if_neg h]

@[simp] theorem Protocol.timing_charOne (P : Protocol) : P.timing charOne = P.one := if_pos rfl

theorem Protocol.timing_of_ne (P : Protocol) {ch : Char8} (h : ch ≠ charOne) : P.timing ch = P.zero := if_neg h

/-! ### What the two symbols write -/

theorem exec_one (s : State) : exec .one s = .next { s with
    hcnt := 0#24, lcnt := 0#24, level := some .low
    trace := s.trace ++ pulseEvents s.protocol s.pin s.oneTiming } :=
  congrArg Host.Outcome.next (txpulse_eq s.oneTiming s)

theorem exec_zero (ch : Char8) (s : State) : exec (.zero ch) s = .next { s with
    hcnt := 0#24, lcnt := 0#24, level := some .low
    trace := s.trace ++ pulseEvents s.protocol s.pin s.zeroTiming } :=
  congrArg Host.Outcome.next (txpulse_eq s.zeroTiming s)

/-- One unit and two units of the default pulse length (R128). -/
theorem pulseDur_default_one : pulseDur 400#16 1#8 = 400#24 := by decide

theorem pulseDur_default_two : pulseDur 400#16 2#8 = 800#24 := by decide

/-! ### The timing of the symbol in progress -/

/-- In either string section the pulse in progress has the timing of the character at IDX (R152). -/
theorem curTiming_of_char {A C : List Char8} {s : State} {ch : Char8}
    (h : (s.phase = .addr ∧ A[s.idx.toNat]? = some ch) ∨ (s.phase = .cmd ∧ C[s.idx.toNat]? = some ch)) :
    curTiming A C s = some (s.protocol.timing ch) := by
  obtain ⟨hp, hch⟩ | ⟨hp, hch⟩ := h
  · rw [curTiming_addr A C s hp, symbolTiming_some s A s.idx ch hch]
  · rw [curTiming_cmd A C s hp, symbolTiming_some s C s.idx ch hch]

/-! ### The obligations -/

/-- Settles O23: ONE is one pulse of the one timing, and the timing at an index is that of the character there. -/
theorem oneSendsTheOneTiming : Obligations.OneSendsTheOneTiming := by
  refine ⟨decode_char_one, exec_one, fun s hlen hhigh hlow => ⟨_, exec_one s, ?_⟩, fun A C s h => ?_⟩
  · have hh : pulseDur s.plen s.oneH = 400#24 := by rw [hlen, hhigh, pulseDur_default_one]
    have hl : pulseDur s.plen s.oneL = 800#24 := by rw [hlen, hlow, pulseDur_default_two]
    rw [← hh, ← hl]
    rfl
  · have hcur : curTiming A C s = some (s.protocol.timing charOne) := curTiming_of_char h
    rw [hcur, Protocol.timing_charOne]
    rfl

/-- Settles O24: ZERO is one pulse of the zero timing, and the timing at an index is that of the character there. -/
theorem zeroSendsTheZeroTiming : Obligations.ZeroSendsTheZeroTiming := by
  refine ⟨fun ch => decode_char_of_ne, exec_zero, fun ch s hlen hhigh hlow => ⟨_, exec_zero ch s, ?_⟩, fun A C s ch hne h => ?_⟩
  · have hh : pulseDur s.plen s.zeroH = 800#24 := by rw [hlen, hhigh, pulseDur_default_two]
    have hl : pulseDur s.plen s.zeroL = 400#24 := by rw [hlen, hlow, pulseDur_default_one]
    rw [← hh, ← hl]
    rfl
  · rw [curTiming_of_char h, Protocol.timing_of_ne s.protocol hne]
    rfl

end Sys2Proof.Machine

/-! # Proofs of 42_command_table.md: LKCMD and LKADDR -/

namespace Sys2Proof.Machine

/-! ### LKCMD visits the entries in catalog order (R170) -/

theorem cmdOrder_eq_finRange : cmdOrder = List.finRange 4 := by decide

/-- No name of the catalog is empty, so `firstChar` never answers its default. -/
theorem cmdName_head? : ∀ k : Fin 4, (cmdName k).head? = some (firstChar (cmdName k)) := by decide

theorem firstChar_beq_iff (k : Fin 4) (c : Char8) :
    (firstChar (cmdName k) == c) = true ↔ (cmdName k).head? = some c := by
  rw [beq_iff_eq, cmdName_head?, Option.some_inj]

theorem firstChar_beq_eq_false_iff (k : Fin 4) (c : Char8) :
    (firstChar (cmdName k) == c) = false ↔ (cmdName k).head? ≠ some c := by
  rw [← Bool.not_eq_true, firstChar_beq_iff]

theorem lkcmd_eq_find? (c : Char8) : lkcmd c = (Fin.find? fun k => firstChar (cmdName k) == c).map cmdCode := by
  rw [lkcmd, cmdOrder_eq_finRange, Fin.find?_eq_find?_finRange]

theorem lkcmd_of_first_match {c : Char8} {k : Fin 4} (hk : (cmdName k).head? = some c)
    (hfirst : ∀ j : Fin 4, j < k → (cmdName j).head? ≠ some c) : lkcmd c = some (cmdCode k) := by
  have hfind : (Fin.find? fun k => firstChar (cmdName k) == c) = some k :=
    Fin.find?_eq_some_iff.mpr ⟨(firstChar_beq_iff k c).mpr hk, fun j hj =>
      (firstChar_beq_eq_false_iff j c).mpr (hfirst j hj)⟩
  rw [lkcmd_eq_find?, hfind, Option.map_some]

theorem lkcmd_of_no_match {c : Char8} (h : ∀ k : Fin 4, (cmdName k).head? ≠ some c) : lkcmd c = none := by
  have hfind : (Fin.find? fun k => firstChar (cmdName k) == c) = none :=
    Fin.find?_eq_none_iff.mpr fun k => (firstChar_beq_eq_false_iff k c).mpr (h k)
  rw [lkcmd_eq_find?, hfind, Option.map_none]

/-- LKCMD on the catalog of R62: the names begin with four different letters. -/
theorem lkcmd_table (c : Char8) : lkcmd c =
    if c = 0x6F#8 then some (cmdCode 0) else if c = 0x6C#8 then some (cmdCode 1)
    else if c = 0x6D#8 then some (cmdCode 2) else if c = 0x68#8 then some (cmdCode 3) else none := by
  split_ifs with hoff hlow hmed hhigh
  · exact hoff ▸ lkcmd_of_first_match rfl (by decide)
  · exact hlow ▸ lkcmd_of_first_match rfl (by decide)
  · exact hmed ▸ lkcmd_of_first_match rfl (by decide)
  · exact hhigh ▸ lkcmd_of_first_match rfl (by decide)
  · refine lkcmd_of_no_match fun k hk => ?_
    match k with
    | 0 => exact hoff (Option.some.inj hk).symm
    | 1 => exact hlow (Option.some.inj hk).symm
    | 2 => exact hmed (Option.some.inj hk).symm
    | 3 => exact hhigh (Option.some.inj hk).symm

/-! ### The index of LKADDR (R175) -/

theorem lkaddr_of_lt {i : Half} (h : i.toNat < 3) : lkaddr i = some (addrRom ⟨i.toNat, h⟩) := dif_pos h

theorem lkaddr_of_ge {i : Half} (h : 3 ≤ i.toNat) : lkaddr i = none := dif_neg (Nat.not_lt.mpr h)

/-! ### A failed lookup is a fault of the operation that made it (R170, R175) -/

theorem exec_send_of_lkcmd_none {c : Char8} (s : State) (h : lkcmd c = none) :
    exec (.send c) s = .next (raise .unknownCommand s) := by
  simp [exec, execSend, h]

theorem exec_seladdr_of_lkaddr_none {i : Half} (s : State) (h : lkaddr i = none) :
    exec (.seladdr i) s = .next (raise .addrIndexRange s) := by
  simp [exec, execSeladdr, h]

/-! ### The characters of a catalog string (20_memory.md R64) -/

theorem symbolChar_eq_or (b : Bool) : symbolChar b = charZero ∨ symbolChar b = charOne := by
  cases b with
  | false => exact .inl rfl
  | true => exact .inr rfl

/-- Both catalogs hold bits read by `symbolChar`, so every character of an entry is `'0'` or `'1'`. -/
theorem charZero_or_charOne_of_mem_map_symbolChar {n : Nat} {v : Vector Bool n} {ch : Char8}
    (h : ch ∈ (v.map symbolChar).toList) : ch = charZero ∨ ch = charOne := by
  obtain ⟨b, -, rfl⟩ := Vector.mem_map.mp (Vector.mem_toList_iff.mp h)
  exact symbolChar_eq_or b

/-! ### The obligations -/

/-- Settles O31: LKCMD is a search in catalog order, and its table follows from the four names. -/
theorem lkcmdMatchesTheFirstCharacter : Obligations.LkcmdMatchesTheFirstCharacter :=
  ⟨lkcmd_table, fun _ _ => lkcmd_of_first_match, fun _ => lkcmd_of_no_match, fun _ => exec_send_of_lkcmd_none⟩

/-- Settles O32: a result of LKCMD is a code of the catalog. -/
theorem lkcmdResultsAreCodes : Obligations.LkcmdResultsAreCodes := by
  intro c code h
  obtain ⟨k, rfl⟩ := lkcmd_some c code h
  exact ⟨Vector.length_toList, fun _ => charZero_or_charOne_of_mem_map_symbolChar⟩

/-- Settles O33: LKADDR by its index, and a result of it is an address of the catalog. -/
theorem lkaddrResultsAreAddresses : Obligations.LkaddrResultsAreAddresses := by
  refine ⟨fun i => lkaddr_of_lt, fun i => lkaddr_of_ge, fun i => exec_seladdr_of_lkaddr_none, fun i a h => ?_⟩
  obtain ⟨k, -, rfl⟩ := lkaddr_some i a h
  exact ⟨Vector.length_toList, fun _ => charZero_or_charOne_of_mem_map_symbolChar⟩

end Sys2Proof.Machine

/-! # Proofs of 30_encoding.md: the decoder and the encoder -/

namespace Sys2Proof

/-! ### The decoder on a word of its fields (R92) -/

theorem decodeWord_cfgout (pin : Half) : decodeWord (formatH 0x1#4 pin) = .ok (.cfgout pin) := by
  simp [decodeWord]

theorem decodeWord_setrep (n : Half) : decodeWord (formatH 0x2#4 n) = .ok (.setrep n) := by
  simp [decodeWord]

theorem decodeWord_seladdr (index : Half) : decodeWord (formatH 0x3#4 index) = .ok (.seladdr index) := by
  simp [decodeWord]

theorem decodeWord_send (c : Char8) : decodeWord (formatH 0x4#4 (0#8 ++ c)) = .ok (.send c) := by
  simp [decodeWord]

theorem decodeWord_setproto : decodeWord (formatH 0x6#4 0#16) = .ok .setproto := by
  simp [decodeWord]

/-- The encoder's word is read back. -/
theorem decodeWord_of_encode {i : Instr} {w : Word} (h : encode i = .word w) : decodeWord w = .ok i := by
  cases i <;> cases h
  case cfgout pin => exact decodeWord_cfgout pin
  case setrep n => exact decodeWord_setrep n
  case seladdr index => exact decodeWord_seladdr index
  case send c => exact decodeWord_send c
  case setplen us => exact Machine.decodeWord_setplen us
  case setproto => exact decodeWord_setproto

/-- A word the decoder accepts is the encoding of its answer: no bit of it is dropped. -/
theorem encode_of_decodeWord {w : Word} {i : Instr} (h : decodeWord w = .ok i) : encode i = .word w := by
  unfold decodeWord at h
  split_ifs at h with hop hz h1 h2 h3 h4 hhigh h5 harg
  all_goals cases h
  all_goals have hw := formatH_fields w (not_not.mp hz)
  · exact congrArg Code.word (h1 ▸ hw)
  · exact congrArg Code.word (h2 ▸ hw)
  · exact congrArg Code.word (h3 ▸ hw)
  · rw [fieldArg_bytes, hhigh, h4] at hw
    exact congrArg Code.word hw
  · exact congrArg Code.word (h5 ▸ hw)
  · have h6 : fieldOp w = 0x6#4 := by bv_omega
    rw [harg, h6] at hw
    exact congrArg Code.word hw

theorem decodeWord_eq_ok_iff (w : Word) (i : Instr) : decodeWord w = .ok i ↔ encode i = .word w :=
  ⟨encode_of_decodeWord, decodeWord_of_encode⟩

/-- The instructions of a command word have no field to check. -/
theorem wellFormed_of_encode {i : Instr} {w : Word} (h : encode i = .word w) : i.wellFormed = true := by
  cases i <;> cases h <;> rfl

/-! ### The rows of the opcode map by mask and match -/

theorem upperMask_getLsbD {i : Nat} (hi : i < 32) : (0xFFFF0000#32).getLsbD i = decide (16 ≤ i) := by
  interval_cases i <;> rfl

theorem sendMask_getLsbD {i : Nat} (hi : i < 32) : (0xFFFFFF00#32).getLsbD i = decide (8 ≤ i) := by
  interval_cases i <;> rfl

/-- A word is its upper half and its low 16 bits. -/
theorem upper_eq_iff (op : BitVec 4) (w : Word) :
    w &&& 0xFFFF0000#32 = formatH op 0#16 ↔ formatH op (w.setWidth 16) = w := by
  refine ⟨fun h => BitVec.eq_of_getLsbD_eq fun i hi => ?_, fun h => by rw [← h, formatH_and_upper]⟩
  have hbit := congrArg (fun b => b.getLsbD i) h
  simp only [BitVec.getLsbD_and, upperMask_getLsbD hi, formatH_getLsbD, BitVec.getLsbD_zero] at hbit
  rw [formatH_getLsbD, BitVec.getLsbD_setWidth]
  by_cases hlow : i < 16
  · simp [hlow]
  · rw [if_neg hlow, decide_eq_true (by omega), Bool.and_true] at hbit
    rw [if_neg hlow, hbit]

/-- A word of SEND is its upper 24 bits and its low 8 bits. -/
theorem sendUpper_eq_iff (op : BitVec 4) (w : Word) :
    w &&& 0xFFFFFF00#32 = formatH op 0#16 ↔ formatH op (0#8 ++ w.setWidth 8) = w := by
  refine ⟨fun h => BitVec.eq_of_getLsbD_eq fun i hi => ?_, fun h => by rw [← h, formatH_and_send]⟩
  have hbit := congrArg (fun b => b.getLsbD i) h
  simp only [BitVec.getLsbD_and, sendMask_getLsbD hi, formatH_getLsbD, BitVec.getLsbD_zero] at hbit
  rw [formatH_getLsbD, bytes_getLsbD, BitVec.getLsbD_setWidth, BitVec.getLsbD_zero]
  by_cases hlow : i < 8
  · simp [hlow, show i < 16 by omega]
  · rw [decide_eq_true (by omega), Bool.and_true] at hbit
    rw [if_neg hlow, hbit]

theorem cfgoutRow_iff (w : Word) :
    w &&& 0xFFFF0000#32 = 0x10000000#32 ↔ decodeWord w = .ok (.cfgout (w.setWidth 16)) := by
  rw [decodeWord_eq_ok_iff, encode, Code.word.injEq]
  exact upper_eq_iff 0x1#4 w

theorem setrepRow_iff (w : Word) :
    w &&& 0xFFFF0000#32 = 0x20000000#32 ↔ decodeWord w = .ok (.setrep (w.setWidth 16)) := by
  rw [decodeWord_eq_ok_iff, encode, Code.word.injEq]
  exact upper_eq_iff 0x2#4 w

theorem seladdrRow_iff (w : Word) :
    w &&& 0xFFFF0000#32 = 0x30000000#32 ↔ decodeWord w = .ok (.seladdr (w.setWidth 16)) := by
  rw [decodeWord_eq_ok_iff, encode, Code.word.injEq]
  exact upper_eq_iff 0x3#4 w

theorem sendRow_iff (w : Word) :
    w &&& 0xFFFFFF00#32 = 0x40000000#32 ↔ decodeWord w = .ok (.send (w.setWidth 8)) := by
  rw [decodeWord_eq_ok_iff, encode, Code.word.injEq]
  exact sendUpper_eq_iff 0x4#4 w

theorem setplenRow_iff (w : Word) :
    w &&& 0xFFFF0000#32 = 0x50000000#32 ↔ decodeWord w = .ok (.setplen (w.setWidth 16)) := by
  rw [decodeWord_eq_ok_iff, encode, Code.word.injEq]
  exact upper_eq_iff 0x5#4 w

theorem setprotoRow_iff (w : Word) : w &&& 0xFFFFFFFF#32 = 0x60000000#32 ↔ decodeWord w = .ok .setproto := by
  rw [decodeWord_eq_ok_iff, encode, Code.word.injEq, show (0xFFFFFFFF#32) = BitVec.allOnes 32 from rfl, BitVec.and_allOnes]
  exact eq_comm

/-- The encoding of an instruction has the fixed bits of a row of the opcode map, or is a character. -/
theorem mask_of_encode {i : Instr} {w : Word} (h : encode i = .word w) :
    w &&& 0xFFFF0000#32 = 0x10000000#32 ∨ w &&& 0xFFFF0000#32 = 0x20000000#32 ∨
    w &&& 0xFFFF0000#32 = 0x30000000#32 ∨ w &&& 0xFFFFFF00#32 = 0x40000000#32 ∨
    w &&& 0xFFFF0000#32 = 0x50000000#32 ∨ w &&& 0xFFFFFFFF#32 = 0x60000000#32 := by
  cases i <;> cases h
  case cfgout pin => exact .inl (formatH_and_upper 0x1#4 pin)
  case setrep n => exact .inr (.inl (formatH_and_upper 0x2#4 n))
  case seladdr index => exact .inr (.inr (.inl (formatH_and_upper 0x3#4 index)))
  case send c => exact .inr (.inr (.inr (.inl (formatH_and_send 0x4#4 c))))
  case setplen us => exact .inr (.inr (.inr (.inr (.inl (formatH_and_upper 0x5#4 us)))))
  case setproto => exact .inr (.inr (.inr (.inr (.inr (by decide)))))

theorem illegal_iff_not_ok (w : Word) : (∃ r, decodeWord w = .illegal r) ↔ ∀ i, decodeWord w ≠ .ok i := by
  cases decodeWord w <;> simp

/-- A word is illegal exactly when it selects no row. -/
theorem illegal_iff_no_row (w : Word) : (∃ r, decodeWord w = .illegal r) ↔
    w &&& 0xFFFF0000#32 ≠ 0x10000000#32 ∧ w &&& 0xFFFF0000#32 ≠ 0x20000000#32 ∧
    w &&& 0xFFFF0000#32 ≠ 0x30000000#32 ∧ w &&& 0xFFFFFF00#32 ≠ 0x40000000#32 ∧
    w &&& 0xFFFF0000#32 ≠ 0x50000000#32 ∧ w &&& 0xFFFFFFFF#32 ≠ 0x60000000#32 := by
  rw [illegal_iff_not_ok]
  constructor
  · intro h
    exact ⟨fun e => h _ ((cfgoutRow_iff w).mp e), fun e => h _ ((setrepRow_iff w).mp e),
      fun e => h _ ((seladdrRow_iff w).mp e), fun e => h _ ((sendRow_iff w).mp e),
      fun e => h _ ((setplenRow_iff w).mp e), fun e => h _ ((setprotoRow_iff w).mp e)⟩
  · rintro ⟨h1, h2, h3, h4, h5, h6⟩ i hi
    obtain h | h | h | h | h | h := mask_of_encode (encode_of_decodeWord hi)
    · exact h1 h
    · exact h2 h
    · exact h3 h
    · exact h4 h
    · exact h5 h
    · exact h6 h

/-! ### The illegal words by their fields (R95) -/

theorem illegal_iff_fields (w : Word) : (∃ r, decodeWord w = .illegal r) ↔
    fieldOp w = 0x0#4 ∨ 0x7#4 ≤ fieldOp w ∨ fieldZ w ≠ 0#12 ∨ (fieldOp w = 0x4#4 ∧ fieldArgHigh w ≠ 0#8) ∨
      (fieldOp w = 0x6#4 ∧ fieldArg w ≠ 0#16) := by
  unfold decodeWord
  split_ifs with hop hz h1 h2 h3 h4 hhigh h5 harg
  · simpa using hop.imp_right Or.inl
  · simp [hz]
  · simp [h1, not_not.mp hz]
  · simp [h2, not_not.mp hz]
  · simp [h3, not_not.mp hz]
  · simp [h4, not_not.mp hz, hhigh]
  · simp [h4, hhigh]
  · simp [h5, not_not.mp hz]
  · simp [show fieldOp w = 0x6#4 by bv_omega, not_not.mp hz, harg]
  · have h6 : fieldOp w = 0x6#4 := by bv_omega
    simp [h6, harg]

theorem fieldOp_toNat (w : Word) : (fieldOp w).toNat = w.toNat / 2 ^ 28 := by
  rw [fieldOp, BitVec.extractLsb'_toNat, Nat.shiftRight_eq_div_pow]
  omega

theorem fieldZ_toNat (w : Word) : (fieldZ w).toNat = w.toNat / 2 ^ 16 % 2 ^ 12 := by
  rw [fieldZ, BitVec.extractLsb'_toNat, Nat.shiftRight_eq_div_pow]

theorem fieldArg_toNat (w : Word) : (fieldArg w).toNat = w.toNat % 2 ^ 16 := by
  rw [fieldArg, BitVec.extractLsb'_toNat, Nat.shiftRight_zero]

theorem fieldArgHigh_toNat (w : Word) : (fieldArgHigh w).toNat = w.toNat / 2 ^ 8 % 2 ^ 8 := by
  rw [fieldArgHigh, BitVec.extractLsb'_toNat, Nat.shiftRight_eq_div_pow]

theorem illegal_iff_arithmetic (w : Word) : (∃ r, decodeWord w = .illegal r) ↔
    (w.toNat / 2 ^ 28 = 0 ∨ 7 ≤ w.toNat / 2 ^ 28 ∨ (w.toNat / 2 ^ 16) % 2 ^ 12 ≠ 0 ∨
      (w.toNat / 2 ^ 28 = 4 ∧ (w.toNat / 2 ^ 8) % 2 ^ 8 ≠ 0) ∨ (w.toNat / 2 ^ 28 = 6 ∧ w.toNat % 2 ^ 16 ≠ 0)) := by
  rw [illegal_iff_fields, ← fieldOp_toNat, ← fieldZ_toNat, ← fieldArg_toNat, ← fieldArgHigh_toNat]
  simp only [← BitVec.toNat_inj, BitVec.le_def, BitVec.toNat_ofNat, ne_eq, Nat.reducePow, Nat.reduceMod]

/-! ### The obligations -/

/-- Settles O1: a command word by its fields, a character by the order of the two tests. -/
theorem decodeOfEncode : Obligations.DecodeOfEncode := by
  intro i hwf
  cases i with
  | cfgout pin => exact decodeWord_cfgout pin
  | setrep n => exact decodeWord_setrep n
  | seladdr index => exact decodeWord_seladdr index
  | send c => exact decodeWord_send c
  | setplen us => exact Machine.decodeWord_setplen us
  | setproto => exact decodeWord_setproto
  | one => exact Machine.decode_char_one
  | zero ch => exact Machine.decode_char_of_ne (bne_iff_ne.mp hwf)

/-- Settles O2: every field of an accepted word is in its instruction, and ZERO keeps its character. -/
theorem encodeOfDecode : Obligations.EncodeOfDecode := by
  intro c i h
  cases c with
  | word w =>
    have he := encode_of_decodeWord h
    exact ⟨wellFormed_of_encode he, he⟩
  | char ch =>
    by_cases hch : ch = charOne
    · subst hch
      cases h
      exact ⟨rfl, rfl⟩
    · rw [Machine.decode_char_of_ne hch] at h
      cases h
      exact ⟨bne_iff_ne.mpr hch, rfl⟩

/-- Settles O3: each row by the word's upper bits, and no row by what the encoder makes. -/
theorem opcodeMapByMaskAndMatch : Obligations.OpcodeMapByMaskAndMatch := fun w =>
  ⟨cfgoutRow_iff w, setrepRow_iff w, seladdrRow_iff w, sendRow_iff w, setplenRow_iff w, setprotoRow_iff w,
    illegal_iff_no_row w⟩

/-- Settles O4: the decoder's tests as arithmetic, and the fault as a step. -/
theorem illegalWordsRaiseIllegalOp : Obligations.IllegalWordsRaiseIllegalOp := by
  refine ⟨illegal_iff_arithmetic, fun s w rest r hp hops hd => ?_⟩
  rw [Machine.step_idle s hp, Machine.hostStep_illegal s w rest r hops hd]
  rfl

/-- Settles O5: the words are closed. -/
theorem workedWordsDecode : Obligations.WorkedWordsDecode := by
  unfold Obligations.WorkedWordsDecode
  decide

/-- Settles O6: the encoding of a frame symbol is a character, so no word decodes to one. -/
theorem symbolsComeOnlyFromCharacters : Obligations.SymbolsComeOnlyFromCharacters := by
  refine ⟨fun w i h => ⟨?_, fun ch => ?_⟩, fun ch => ⟨?_, Machine.decode_char_of_ne⟩⟩
  · rintro rfl
    cases encode_of_decodeWord h
  · rintro rfl
    cases encode_of_decodeWord h
  · rintro rfl
    exact Machine.decode_char_one

end Sys2Proof

/-! # Proofs of 43_driver_facade.md and 60_exceptions.md: the host's operations, one by one -/

namespace Sys2Proof.Machine

/-! ### What each operation does, case by case -/

theorem exec_cfgout (pin : Half) (s : State) : exec (.cfgout pin) s =
    .next { s with pin := pin, pinSet := true, level := none, trace := s.trace ++ [.pinMode pin] } := rfl

theorem exec_setrep (n : Half) (s : State) : exec (.setrep n) s = .next { s with repeatCount := n } := rfl

theorem exec_seladdr_of_lkaddr_some {i : Half} {a : Vector Char8 42} (s : State) (h : lkaddr i = some a) :
    exec (.seladdr i) s = .next { s with addr := a, addrSet := true } := by
  simp [exec, execSeladdr, h]

theorem exec_send_no_address {c : Char8} {code : Vector Char8 26} (s : State) (hc : lkcmd c = some code)
    (ha : s.addrSet = false) : exec (.send c) s = .next (raise .addrNotSelected s) := by
  simp [exec, execSend, hc, ha]

theorem exec_send_no_pin {c : Char8} {code : Vector Char8 26} (s : State) (hc : lkcmd c = some code)
    (ha : s.addrSet = true) (hp : s.pinSet = false) : exec (.send c) s = .next (raise .pinNotConfigured s) := by
  simp [exec, execSend, hc, ha, hp]

/-- An accepted SEND latches CODE; with REPEAT 0 that is all (R142). -/
theorem exec_send_repeat_zero {c : Char8} {code : Vector Char8 26} (s : State) (hc : lkcmd c = some code)
    (ha : s.addrSet = true) (hp : s.pinSet = true) (hr : s.repeatCount = 0#16) :
    exec (.send c) s = .next { s with code := code } := by
  rw [exec_send_accepted c code s hc ha hp, seqStart_pin { s with code := code } hp]
  exact congrArg Host.Outcome.next (if_pos hr)

/-- With REPEAT at least 1 an accepted SEND starts the first repeat (R151). -/
theorem exec_send_start {c : Char8} {code : Vector Char8 26} (s : State) (hc : lkcmd c = some code)
    (ha : s.addrSet = true) (hp : s.pinSet = true) (hr : s.repeatCount ≠ 0#16) :
    exec (.send c) s =
      .next { s with code := code, rep := s.repeatCount, phase := .sync, scnt := 12#4, sub := .hiSet } := by
  rw [exec_send_accepted c code s hc ha hp, seqStart_pin { s with code := code } hp]
  exact congrArg Host.Outcome.next (if_neg hr)

/-- All that SELADDR can do. -/
theorem exec_seladdr_cases {i : Half} {s t : State} (h : exec (.seladdr i) s = .next t) :
    (3 ≤ i.toNat ∧ t = raise .addrIndexRange s) ∨
    (i.toNat < 3 ∧ ∃ k, t = { s with addr := addrRom k, addrSet := true }) := by
  by_cases hi : i.toNat < 3
  · rw [exec_seladdr_of_lkaddr_some s (lkaddr_of_lt hi)] at h
    exact .inr ⟨hi, _, (Host.Outcome.next.inj h).symm⟩
  · have hge : 3 ≤ i.toNat := Nat.not_lt.mp hi
    rw [exec_seladdr_of_lkaddr_none s (lkaddr_of_ge hge)] at h
    exact .inl ⟨hge, (Host.Outcome.next.inj h).symm⟩

/-- All that SEND can do: fault at the first check that fails, or pass all three and start, or end if REPEAT is 0. -/
theorem exec_send_cases {c : Char8} {s t : State} (h : exec (.send c) s = .next t) :
    (∃ cause, t = raise cause s) ∨
    ∃ code, lkcmd c = some code ∧ s.addrSet = true ∧ s.pinSet = true ∧
      ((s.repeatCount = 0#16 ∧ t = { s with code := code }) ∨
        (s.repeatCount ≠ 0#16 ∧
          t = { s with code := code, rep := s.repeatCount, phase := .sync, scnt := 12#4, sub := .hiSet })) := by
  cases hc : lkcmd c with
  | none =>
    rw [exec_send_of_lkcmd_none s hc] at h
    exact .inl ⟨_, (Host.Outcome.next.inj h).symm⟩
  | some code =>
    obtain ha | ha := Bool.eq_false_or_eq_true s.addrSet
    · obtain hp | hp := Bool.eq_false_or_eq_true s.pinSet
      · refine .inr ⟨code, rfl, ha, hp, ?_⟩
        by_cases hr : s.repeatCount = 0#16
        · rw [exec_send_repeat_zero s hc ha hp hr] at h
          exact .inl ⟨hr, (Host.Outcome.next.inj h).symm⟩
        · rw [exec_send_start s hc ha hp hr] at h
          exact .inr ⟨hr, (Host.Outcome.next.inj h).symm⟩
      · rw [exec_send_no_pin s hc ha hp] at h
        exact .inl ⟨_, (Host.Outcome.next.inj h).symm⟩
    · rw [exec_send_no_address s hc ha] at h
      exact .inl ⟨_, (Host.Outcome.next.inj h).symm⟩

/-- All that the host's step can do: wait, fault on an illegal word, or run the instruction of a legal one. -/
theorem hostStep_cases {s t : State} (h : hostStep s = .next t) :
    (s.hostOps = [] ∧ t = s) ∨
    (∃ w rest r, s.hostOps = w :: rest ∧ decodeWord w = .illegal r ∧
      t = raise .illegalOp { s with hostOps := rest }) ∨
    ∃ w rest i, s.hostOps = w :: rest ∧ decodeWord w = .ok i ∧ exec i { s with hostOps := rest } = .next t := by
  cases hops : s.hostOps with
  | nil =>
    rw [hostStep_nil s hops] at h
    exact .inl ⟨rfl, (Host.Outcome.next.inj h).symm⟩
  | cons w rest =>
    cases hd : decodeWord w with
    | ok i =>
      rw [hostStep_ok s w rest i hops hd] at h
      exact .inr (.inr ⟨w, rest, i, rfl, hd, h⟩)
    | illegal r =>
      rw [hostStep_illegal s w rest r hops hd] at h
      exact .inr (.inl ⟨w, rest, r, rfl, hd, (Host.Outcome.next.inj h).symm⟩)

/-! ### The operands of SELADDR and SEND -/

theorem lkaddr_ofNat (index : Fin 3) : lkaddr (BitVec.ofNat 16 index.val) = some (addrRom index) := by
  have hval : (BitVec.ofNat 16 index.val).toNat = index.val := Nat.mod_eq_of_lt (by omega)
  have hlt : (BitVec.ofNat 16 index.val).toNat < 3 := by omega
  rw [lkaddr_of_lt hlt]
  exact congrArg (fun k => some (addrRom k)) (Fin.ext hval)

/-- The four letters are the first characters of the four names (R94). -/
theorem lkcmd_commandLetter : ∀ k : Fin 4, lkcmd (Safety.commandLetter k) = some (cmdCode k)
  | 0 => lkcmd_of_first_match rfl (by decide)
  | 1 => lkcmd_of_first_match rfl (by decide)
  | 2 => lkcmd_of_first_match rfl (by decide)
  | 3 => lkcmd_of_first_match rfl (by decide)

theorem lkcmd_other {c : Char8} (ho : c ≠ 0x6F#8) (hl : c ≠ 0x6C#8) (hm : c ≠ 0x6D#8) (hh : c ≠ 0x68#8) :
    lkcmd c = none := by
  rw [lkcmd_table, if_neg ho, if_neg hl, if_neg hm, if_neg hh]

/-! ### The bit of a cause (10_state.md R33) -/

theorem mask_getLsbD (c : Cause) : ∀ k, k < 5 → c.mask.getLsbD k = decide (k + 1 = c.code) := by
  cases c <;> decide

theorem or_mask_of_getLsbD {c : Cause} {b : BitVec 5} (h : b.getLsbD (c.code - 1) = true) : b ||| c.mask = b := by
  apply BitVec.eq_of_getLsbD_eq
  intro k hk
  rw [BitVec.getLsbD_or, mask_getLsbD c k hk]
  by_cases hc : k + 1 = c.code
  · simp [show k = c.code - 1 by omega, h]
  · simp [hc]

theorem raise_raise (c : Cause) (s : State) : raise c (raise c s) = raise c s := by
  simp only [raise_eq, BitVec.or_assoc, BitVec.or_self]

/-! ### The obligations -/

/-- Settles O7: the host's step with a legal word, and with none. -/
theorem stepRunsHostOperation : Obligations.StepRunsHostOperation := by
  refine ⟨fun s w rest i hp hops hd => ?_, fun s hp hops => ?_⟩
  · rw [step_idle s hp, hostStep_ok s w rest i hops hd]
  · rw [step_idle s hp, hostStep_nil s hops]

/-- Settles O8: the timing of the character at IDX is that of the instruction it decodes to. -/
theorem stepFetchesTheSymbol : Obligations.StepFetchesTheSymbol := by
  intro s ch hs h
  have hcur := curTiming_of_char h
  have hpulse : s.inPulse := .inr (h.imp And.left And.left)
  have hbusy : s.phase ≠ .idle := by obtain ⟨hp, -⟩ | ⟨hp, -⟩ := h <;> simp [hp]
  refine ⟨s.protocol.timing ch, instrTiming_decodeSymbol s ch, ?_⟩
  rw [step_busy s hbusy, seqStep_pulse _ _ s hpulse, pulseStep_hiSet _ _ s _ hs hcur]
  rfl

/-- Settles O11: CFGOUT is one update. -/
theorem cfgoutRecordsThePin : Obligations.CfgoutRecordsThePin := exec_cfgout

/-- Settles O13: the lookup of SELADDR by its index. -/
theorem seladdrStoresOrFaults : Obligations.SeladdrStoresOrFaults :=
  ⟨fun index s => exec_seladdr_of_lkaddr_some s (lkaddr_ofNat index),
    fun _ s hi => exec_seladdr_of_lkaddr_none s (lkaddr_of_ge hi)⟩

/-- Settles O14: the lookup reads no register, and a fault taken twice sets one bit. -/
theorem seladdrIsIdempotent : Obligations.SeladdrIsIdempotent := by
  intro index s
  cases ha : lkaddr index with
  | none => exact ⟨_, exec_seladdr_of_lkaddr_none s ha, by rw [exec_seladdr_of_lkaddr_none _ ha, raise_raise]⟩
  | some a => exact ⟨_, exec_seladdr_of_lkaddr_some s ha, exec_seladdr_of_lkaddr_some _ ha⟩

/-- Settles O15: each letter is found, and the start is that of the sequencer. -/
theorem sendAcceptedStartsTheFrame : Obligations.SendAcceptedStartsTheFrame := by
  intro k s ha hp
  split_ifs with hr
  · exact exec_send_repeat_zero s (lkcmd_commandLetter k) ha hp hr
  · exact exec_send_start s (lkcmd_commandLetter k) ha hp hr

/-- Settles O16: one case of SEND a check. -/
theorem sendChecksInOrder : Obligations.SendChecksInOrder :=
  ⟨fun _ s ho hl hm hh => exec_send_of_lkcmd_none s (lkcmd_other ho hl hm hh),
    fun k s ha => exec_send_no_address s (lkcmd_commandLetter k) ha,
    fun k s ha hp => exec_send_no_pin s (lkcmd_commandLetter k) ha hp⟩

/-- Settles O25: the mask of a cause has its one bit. -/
theorem raiseSetsOnlyItsBit : Obligations.RaiseSetsOnlyItsBit := by
  refine fun c s => ⟨fun k hk => ?_, rfl⟩
  rw [raise_err, BitVec.getLsbD_or, mask_getLsbD c k hk, Bool.or_comm]

/-- Settles O52: the constants of the reset state. -/
theorem resetLeavesTheSpecifiedValues : Obligations.ResetLeavesTheSpecifiedValues :=
  ⟨rfl, rfl, rfl, rfl, rfl, rfl, rfl, rfl, rfl, rfl, rfl⟩

/-- Settles O45: an empty section is one `enterAddr` or `enterCmd` passes over. -/
theorem emptySectionsAreSkipped : Obligations.EmptySectionsAreSkipped := by
  refine ⟨fun s hp => ⟨?_, fun c C => ?_, fun a A C => ?_⟩, fun A s hp hs hlen => ?_⟩
  · rw [seqStep_gaps _ _ s hp, enterAddr_nil, enterCmd_nil]
    rfl
  · rw [seqStep_gaps _ _ s hp, enterAddr_nil, enterCmd_cons _ (List.cons_ne_nil c C)]
    rfl
  · rw [seqStep_gaps _ _ s hp, enterAddr_cons _ _ (List.cons_ne_nil a A)]
    rfl
  · have hend (C : List Char8) : seqStep A C s =
        .next (enterCmd C { pulseLoHold s with sub := .hiSet, idx := s.idx + 1#6 }) := by
      rw [seqStep_pulse A C s (.inr (.inl hp)), pulseStep_loHold A C s hs]
      exact congrArg Host.Outcome.next (advance_addr_last A C { pulseLoHold s with sub := .hiSet } hp hlen)
    refine ⟨?_, fun c C => ?_⟩
    · rw [hend, enterCmd_nil]
      rfl
    · rw [hend, enterCmd_cons _ (List.cons_ne_nil c C)]
      rfl

end Sys2Proof.Machine

/-! # Proofs of 10_state.md and 60_exceptions.md: which registers a step writes, and what it never reads -/

namespace Sys2Proof.Machine

/-! ### The frame of each instruction -/

/-- SEND writes ERR, or CODE and the fields of SEQ. -/
theorem exec_send_frame {c : Char8} {s t : State} (h : exec (.send c) s = .next t) : ∃ e code ph r n sb,
    t = { s with err := e, code := code, phase := ph, rep := r, scnt := n, sub := sb } := by
  obtain ⟨cause, rfl⟩ | ⟨code, -, -, -, ⟨-, rfl⟩ | ⟨-, rfl⟩⟩ := exec_send_cases h
  · exact ⟨_, s.code, s.phase, s.rep, s.scnt, s.sub, rfl⟩
  · exact ⟨s.err, code, s.phase, s.rep, s.scnt, s.sub, rfl⟩
  · exact ⟨s.err, code, _, _, _, _, rfl⟩

/-- A frame symbol writes the trace, LEVEL and the two counters of a pulse. -/
theorem exec_symbol_frame {i : Instr} {s t : State} (hi : i = .one ∨ ∃ ch, i = .zero ch) (h : exec i s = .next t) :
    ∃ evs, t = { s with hcnt := 0#24, lcnt := 0#24, level := some .low, trace := s.trace ++ evs } := by
  obtain rfl | ⟨ch, rfl⟩ := hi
  · exact ⟨_, (Host.Outcome.next.inj ((exec_one s).symm.trans h)).symm⟩
  · exact ⟨_, (Host.Outcome.next.inj ((exec_zero ch s).symm.trans h)).symm⟩

/-- Only SETREP writes REPEAT. -/
theorem exec_repeatCount {i : Instr} {s t : State} (hi : ∀ n, i ≠ .setrep n) (h : exec i s = .next t) :
    t.repeatCount = s.repeatCount := by
  cases i with
  | setrep n => exact absurd rfl (hi n)
  | seladdr index => obtain ⟨-, rfl⟩ | ⟨-, k, rfl⟩ := exec_seladdr_cases h <;> rfl
  | send c => obtain ⟨_, _, _, _, _, _, rfl⟩ := exec_send_frame h; rfl
  | one => obtain ⟨_, rfl⟩ := exec_symbol_frame (.inl rfl) h; rfl
  | zero ch => obtain ⟨_, rfl⟩ := exec_symbol_frame (.inr ⟨ch, rfl⟩) h; rfl
  | cfgout pin => cases h; rfl
  | setplen us => cases h; rfl
  | setproto => cases h; rfl

/-- An instruction leaves ERR, or is a fault and nothing else. -/
theorem exec_err_or_raise {i : Instr} {s t : State} (h : exec i s = .next t) :
    t.err = s.err ∨ ∃ cause, t = raise cause s := by
  cases i with
  | seladdr index =>
    obtain ⟨-, rfl⟩ | ⟨-, k, rfl⟩ := exec_seladdr_cases h
    · exact .inr ⟨_, rfl⟩
    · exact .inl rfl
  | send c =>
    obtain ⟨cause, rfl⟩ | ⟨code, -, -, -, ⟨-, rfl⟩ | ⟨-, rfl⟩⟩ := exec_send_cases h
    · exact .inr ⟨cause, rfl⟩
    · exact .inl rfl
    · exact .inl rfl
  | one => obtain ⟨_, rfl⟩ := exec_symbol_frame (.inl rfl) h; exact .inl rfl
  | zero ch => obtain ⟨_, rfl⟩ := exec_symbol_frame (.inr ⟨ch, rfl⟩) h; exact .inl rfl
  | cfgout pin => cases h; exact .inl rfl
  | setrep n => cases h; exact .inl rfl
  | setplen us => cases h; exact .inl rfl
  | setproto => cases h; exact .inl rfl

/-- The host's step leaves ERR, or takes a word and faults. -/
theorem hostStep_err_or_raise {s t : State} (h : hostStep s = .next t) :
    t.err = s.err ∨ ∃ w rest cause, s.hostOps = w :: rest ∧ t = raise cause { s with hostOps := rest } := by
  obtain ⟨-, rfl⟩ | ⟨w, rest, r, hops, -, rfl⟩ | ⟨w, rest, i, hops, -, hx⟩ := hostStep_cases h
  · exact .inl rfl
  · exact .inr ⟨w, rest, _, hops, rfl⟩
  · obtain he | ⟨cause, rfl⟩ := exec_err_or_raise hx
    · exact .inl he
    · exact .inr ⟨w, rest, cause, hops, rfl⟩

/-! ### A step of a send -/

/-- A step of a send answers the frame of the sequencer's step. -/
theorem step_busy_frame {s t : State} (hp : s.phase ≠ .idle) (h : step s = .next t) :
    ∃ ph r n i sb hc lc g, t = { s with
      trace := s.trace ++ [s.nextEvent], level := levelAfter s.level s.nextEvent
      phase := ph, rep := r, scnt := n, idx := i, sub := sb, hcnt := hc, lcnt := lc, gcnt := g } :=
  seqStep_frame _ _ s t hp ((step_busy s hp).symm.trans h)

/-- A busy state's next event is a drive of the pin or the Delay of the hold in progress. -/
theorem nextEvent_cases (s : State) (hp : s.phase ≠ .idle) :
    (s.sub = .hiSet ∧ s.nextEvent = .pinLevel s.pin .high) ∨ (s.sub = .loSet ∧ s.nextEvent = .pinLevel s.pin .low) ∨
      ∃ d, holdCounter s = some d ∧ s.nextEvent = .delay d := by
  obtain hi | hi | hi | hi := phase_cases s
  · exact absurd hi hp
  · cases hs : s.sub with
    | hiSet => exact .inl ⟨rfl, nextEvent_hiSet s hi hs⟩
    | hiHold => exact .inr (.inr ⟨_, holdCounter_hiHold s hi hs, nextEvent_hold s _ (holdCounter_hiHold s hi hs)⟩)
    | loSet => exact .inr (.inl ⟨rfl, nextEvent_loSet s hi hs⟩)
    | loHold => exact .inr (.inr ⟨_, holdCounter_loHold s hi hs, nextEvent_hold s _ (holdCounter_loHold s hi hs)⟩)
  · exact .inr (.inr ⟨_, holdCounter_gaps s hi, nextEvent_hold s _ (holdCounter_gaps s hi)⟩)
  · exact .inr (.inr ⟨_, holdCounter_gapr s hi, nextEvent_hold s _ (holdCounter_gapr s hi)⟩)

/-! ### ERR, the trace and LEVEL are write-only

`withOutputs e tr l s` has ERR, the trace and LEVEL replaced. A step is independent of the three when it answers for every such
replacement, adding the same ERR bits and the same events, and writing LEVEL the same way or leaving it. -/

/-- The state with ERR, the trace and LEVEL replaced. -/
def withOutputs (e : BitVec 5) (tr : List Event) (l : Option Level) (s : State) : State :=
  { s with err := e, trace := tr, level := l }

/-- The step `f` from `s` to `t` adds to ERR and to the trace, and writes LEVEL or leaves it, whatever they held. -/
def OutputsUnread (f : State → Host.Outcome State Fault Refusal) (s t : State) : Prop :=
  ∃ (d : BitVec 5) (evs : List Event) (lv : Option (Option Level)), ∀ e tr l,
    f (withOutputs e tr l s) = .next (withOutputs (e ||| d) (tr ++ evs) (lv.getD l) t)

/-- A step that writes none of the three. -/
theorem outputsUnread_of_commute {f : State → Host.Outcome State Fault Refusal} {s t : State}
    (h : ∀ e tr l, f (withOutputs e tr l s) = .next (withOutputs e tr l t)) : OutputsUnread f s t :=
  ⟨0#5, [], none, fun e tr l => by rw [BitVec.or_zero, List.append_nil, h]; rfl⟩

/-- A step that faults and writes nothing else of the three. -/
theorem outputsUnread_of_raise {f : State → Host.Outcome State Fault Refusal} {s t : State} (c : Cause)
    (h : ∀ e tr l, f (withOutputs e tr l s) = .next (raise c (withOutputs e tr l t))) : OutputsUnread f s t :=
  ⟨c.mask, [], none, fun e tr l => by rw [List.append_nil, h]; rfl⟩

/-- A step that emits events and writes LEVEL. -/
theorem outputsUnread_of_emit {f : State → Host.Outcome State Fault Refusal} {s t : State} (evs : List Event)
    (lv : Option (Option Level))
    (h : ∀ e tr l, f (withOutputs e tr l s) = .next (withOutputs e (tr ++ evs) (lv.getD l) t)) : OutputsUnread f s t :=
  ⟨0#5, evs, lv, fun e tr l => by rw [BitVec.or_zero, h]⟩

theorem exec_outputsUnread {i : Instr} {s t : State} (h : exec i s = .next t) : OutputsUnread (exec i) s t := by
  cases i with
  | cfgout pin =>
    cases h
    exact outputsUnread_of_emit [.pinMode pin] (some none) fun _ _ _ => rfl
  | setrep n =>
    cases h
    exact outputsUnread_of_commute fun _ _ _ => rfl
  | setplen us =>
    cases h
    exact outputsUnread_of_commute fun _ _ _ => rfl
  | setproto =>
    cases h
    exact outputsUnread_of_commute fun _ _ _ => rfl
  | one =>
    rw [exec_one] at h
    cases h
    exact outputsUnread_of_emit (pulseEvents s.protocol s.pin s.oneTiming) (some (some .low)) fun e tr l =>
      exec_one (withOutputs e tr l s)
  | zero ch =>
    rw [exec_zero] at h
    cases h
    exact outputsUnread_of_emit (pulseEvents s.protocol s.pin s.zeroTiming) (some (some .low)) fun e tr l =>
      exec_zero ch (withOutputs e tr l s)
  | seladdr index =>
    cases ha : lkaddr index with
    | none =>
      rw [exec_seladdr_of_lkaddr_none s ha] at h
      cases h
      exact outputsUnread_of_raise .addrIndexRange fun e tr l =>
        exec_seladdr_of_lkaddr_none (withOutputs e tr l s) ha
    | some a =>
      rw [exec_seladdr_of_lkaddr_some s ha] at h
      cases h
      exact outputsUnread_of_commute fun e tr l => exec_seladdr_of_lkaddr_some (withOutputs e tr l s) ha
  | send c =>
    cases hc : lkcmd c with
    | none =>
      rw [exec_send_of_lkcmd_none s hc] at h
      cases h
      exact outputsUnread_of_raise .unknownCommand fun e tr l => exec_send_of_lkcmd_none (withOutputs e tr l s) hc
    | some code =>
      obtain ha | ha := Bool.eq_false_or_eq_true s.addrSet
      · obtain hp | hp := Bool.eq_false_or_eq_true s.pinSet
        · by_cases hr : s.repeatCount = 0#16
          · rw [exec_send_repeat_zero s hc ha hp hr] at h
            cases h
            exact outputsUnread_of_commute fun e tr l => exec_send_repeat_zero (withOutputs e tr l s) hc ha hp hr
          · rw [exec_send_start s hc ha hp hr] at h
            cases h
            exact outputsUnread_of_commute fun e tr l => exec_send_start (withOutputs e tr l s) hc ha hp hr
        · rw [exec_send_no_pin s hc ha hp] at h
          cases h
          exact outputsUnread_of_raise .pinNotConfigured fun e tr l => exec_send_no_pin (withOutputs e tr l s) hc ha hp
      · rw [exec_send_no_address s hc ha] at h
        cases h
        exact outputsUnread_of_raise .addrNotSelected fun e tr l => exec_send_no_address (withOutputs e tr l s) hc ha

theorem hostStep_outputsUnread {s t : State} (h : hostStep s = .next t) : OutputsUnread hostStep s t := by
  obtain ⟨hops, rfl⟩ | ⟨w, rest, r, hops, hd, rfl⟩ | ⟨w, rest, i, hops, hd, hx⟩ := hostStep_cases h
  · exact outputsUnread_of_commute fun e tr l => hostStep_nil (withOutputs e tr l _) hops
  · exact outputsUnread_of_raise .illegalOp fun e tr l => hostStep_illegal (withOutputs e tr l s) w rest r hops hd
  · obtain ⟨d, evs, lv, hf⟩ := exec_outputsUnread hx
    exact ⟨d, evs, lv, fun e tr l => (hostStep_ok (withOutputs e tr l s) w rest i hops hd).trans (hf e tr l)⟩

section

variable (e : BitVec 5) (tr : List Event) (l : Option Level) (s : State)

theorem enterCmd_withOutputs (C : List Char8) :
    enterCmd C (withOutputs e tr l s) = withOutputs e tr l (enterCmd C s) := by
  by_cases h : C = []
  · rw [h, enterCmd_nil, enterCmd_nil]
    rfl
  · rw [enterCmd_cons C h, enterCmd_cons C h]
    rfl

theorem enterAddr_withOutputs (A C : List Char8) :
    enterAddr A C (withOutputs e tr l s) = withOutputs e tr l (enterAddr A C s) := by
  by_cases h : A = []
  · rw [h, enterAddr_nil, enterAddr_nil, enterCmd_withOutputs]
  · rw [enterAddr_cons A C h, enterAddr_cons A C h]
    rfl

theorem advance_withOutputs (A C : List Char8) :
    advance A C (withOutputs e tr l s) = withOutputs e tr l (advance A C s) := by
  cases hp : s.phase with
  | sync =>
    by_cases h : s.scnt = 1#4
    · rw [advance_sync_last A C (withOutputs e tr l s) hp h, advance_sync_last A C s hp h]
      rfl
    · rw [advance_sync_more A C (withOutputs e tr l s) hp h, advance_sync_more A C s hp h]
      rfl
  | addr =>
    by_cases h : (s.idx + 1#6).toNat = A.length
    · rw [advance_addr_last A C (withOutputs e tr l s) hp h, advance_addr_last A C s hp h, ← enterCmd_withOutputs]
      rfl
    · rw [advance_addr_more A C (withOutputs e tr l s) hp h, advance_addr_more A C s hp h]
      rfl
  | cmd =>
    by_cases h : (s.idx + 1#6).toNat = C.length
    · rw [advance_cmd_last A C (withOutputs e tr l s) hp h, advance_cmd_last A C s hp h]
      rfl
    · rw [advance_cmd_more A C (withOutputs e tr l s) hp h, advance_cmd_more A C s hp h]
      rfl
  | idle => rw [advance_rest A C (withOutputs e tr l s) (.inl hp), advance_rest A C s (.inl hp)]
  | gaps => rw [advance_rest A C (withOutputs e tr l s) (.inr (.inl hp)), advance_rest A C s (.inr (.inl hp))]
  | gapr => rw [advance_rest A C (withOutputs e tr l s) (.inr (.inr hp)), advance_rest A C s (.inr (.inr hp))]

theorem endRepeat_withOutputs : endRepeat (withOutputs e tr l s) = withOutputs e tr l (endRepeat s) := by
  by_cases h : s.rep = 1#16
  · rw [endRepeat_last (withOutputs e tr l s) h, endRepeat_last s h]
    rfl
  · rw [endRepeat_more (withOutputs e tr l s) h, endRepeat_more s h]
    rfl

end

/-- What an event sets LEVEL to, if it does. -/
def Event.levelSet : Event → Option (Option Level)
  | .pinMode _ => some none
  | .pinLevel _ v => some (some v)
  | .delay _ => none

theorem levelAfter_eq_getD (l : Option Level) (ev : Event) : levelAfter l ev = ev.levelSet.getD l := by
  cases ev <;> rfl

theorem seqStep_withOutputs {A C : List Char8} {s t : State} (hb : s.phase ≠ .idle) (h : seqStep A C s = .next t)
    (e : BitVec 5) (tr : List Event) (l : Option Level) : seqStep A C (withOutputs e tr l s) =
      .next (withOutputs e (tr ++ [s.nextEvent]) (levelAfter l s.nextEvent) t) := by
  obtain hi | hi | hi | hi := phase_cases s
  · exact absurd hi hb
  · rw [seqStep_pulse A C s hi] at h
    rw [seqStep_pulse A C (withOutputs e tr l s) hi]
    cases hs : s.sub with
    | hiSet =>
      rw [nextEvent_hiSet s hi hs]
      cases ht : curTiming A C s with
      | none => rw [pulseStep_hiSet_none A C s hs ht] at h; cases h
      | some tm =>
        rw [pulseStep_hiSet A C s tm hs ht] at h
        cases h
        exact pulseStep_hiSet A C (withOutputs e tr l s) tm hs ht
    | hiHold =>
      rw [nextEvent_hold s _ (holdCounter_hiHold s hi hs)]
      rw [pulseStep_hiHold A C s hs] at h
      cases h
      exact pulseStep_hiHold A C (withOutputs e tr l s) hs
    | loSet =>
      rw [nextEvent_loSet s hi hs]
      rw [pulseStep_loSet A C s hs] at h
      cases h
      exact pulseStep_loSet A C (withOutputs e tr l s) hs
    | loHold =>
      rw [nextEvent_hold s _ (holdCounter_loHold s hi hs)]
      rw [pulseStep_loHold A C s hs] at h
      cases h
      rw [← advance_withOutputs]
      exact pulseStep_loHold A C (withOutputs e tr l s) hs
  · rw [nextEvent_hold s _ (holdCounter_gaps s hi)]
    rw [seqStep_gaps A C s hi] at h
    cases h
    rw [← enterAddr_withOutputs]
    exact seqStep_gaps A C (withOutputs e tr l s) hi
  · rw [nextEvent_hold s _ (holdCounter_gapr s hi)]
    rw [seqStep_gapr A C s hi] at h
    cases h
    rw [← endRepeat_withOutputs]
    exact seqStep_gapr A C (withOutputs e tr l s) hi

/-- No step reads ERR, the trace or LEVEL (R33, R36, R38). -/
theorem step_outputsUnread {s t : State} (h : step s = .next t) : OutputsUnread step s t := by
  by_cases hp : s.phase = .idle
  · rw [step_idle s hp] at h
    obtain ⟨d, evs, lv, hf⟩ := hostStep_outputsUnread h
    exact ⟨d, evs, lv, fun e tr l => (step_idle (withOutputs e tr l s) hp).trans (hf e tr l)⟩
  · rw [step_busy s hp] at h
    refine outputsUnread_of_emit [s.nextEvent] s.nextEvent.levelSet fun e tr l => ?_
    rw [← levelAfter_eq_getD]
    exact (step_busy (withOutputs e tr l s) hp).trans (seqStep_withOutputs hp h e tr l)

/-- So a step's own change of the three is the change it makes to any values of them. -/
theorem step_outputs {s t : State} (h : step s = .next t) :
    ∃ (d : BitVec 5) (evs : List Event) (lv : Option (Option Level)),
      t.err = s.err ||| d ∧ t.trace = s.trace ++ evs ∧ t.level = lv.getD s.level ∧
      ∀ e tr l, step (withOutputs e tr l s) = .next (withOutputs (e ||| d) (tr ++ evs) (lv.getD l) t) := by
  obtain ⟨d, evs, lv, hf⟩ := step_outputsUnread h
  have ht : t = withOutputs (s.err ||| d) (s.trace ++ evs) (lv.getD s.level) t :=
    Host.Outcome.next.inj (h.symm.trans (hf s.err s.trace s.level))
  exact ⟨d, evs, lv, congrArg State.err ht, congrArg State.trace ht, congrArg State.level ht, hf⟩

theorem step_err {s t : State} (h : step s = .next t) : ∃ d : BitVec 5, t.err = s.err ||| d ∧
    ∀ e : BitVec 5, step { s with err := e } = .next { t with err := e ||| d } := by
  obtain ⟨d, evs, lv, he, htr, hl, hf⟩ := step_outputs h
  refine ⟨d, he, fun e => (hf e s.trace s.level).trans ?_⟩
  rw [← htr, ← hl]
  rfl

/-- The same of a run, whose added bits are those of its steps. -/
theorem stepRun_err {n : Nat} {s t : State} (h : stepRun n s = .next t) : ∃ d : BitVec 5, t.err = s.err ||| d ∧
    ∀ e : BitVec 5, stepRun n { s with err := e } = .next { t with err := e ||| d } := by
  induction n generalizing s with
  | zero =>
    cases h
    exact ⟨0#5, BitVec.or_zero.symm, fun e => by rw [BitVec.or_zero]; rfl⟩
  | succ n ih =>
    cases hq : step s with
    | fault r => simp [stepRun, hq] at h
    | refused r => simp [stepRun, hq] at h
    | next u =>
      rw [stepRun_succ n s u hq] at h
      obtain ⟨d₁, he₁, hf₁⟩ := step_err hq
      obtain ⟨d₂, he₂, hf₂⟩ := ih h
      refine ⟨d₁ ||| d₂, by rw [he₂, he₁, BitVec.or_assoc], fun e => ?_⟩
      rw [stepRun_succ n _ _ (hf₁ e), ← BitVec.or_assoc]
      exact hf₂ (e ||| d₁)

/-! ### A state with an ERR bit set (60_exceptions.md R221) -/

theorem mask_ne_zero (c : Cause) : c.mask ≠ 0#5 := by cases c <;> decide

theorem goneWrong_raise (c : Cause) (s : State) : Safety.goneWrong (raise c s) := fun h0 =>
  mask_ne_zero c (BitVec.or_eq_zero_iff.mp h0).2

/-- Added ERR bits leave a state gone wrong. -/
theorem goneWrong_of_stepRun {n : Nat} {s t : State} (h : stepRun n s = .next t) (hw : Safety.goneWrong s) :
    Safety.goneWrong t := by
  obtain ⟨d, he, -⟩ := stepRun_err h
  rw [Safety.goneWrong, he]
  exact fun h0 => hw (BitVec.or_eq_zero_iff.mp h0).1

theorem stepRun_one (s : State) : stepRun 1 s = step s := by
  cases h : step s <;> simp [stepRun, h]

/-- A run that answers has answered at every step before its last. -/
theorem stepRun_split {m n : Nat} {s t : State} (h : stepRun (m + n) s = .next t) :
    ∃ u, stepRun m s = .next u ∧ stepRun n u = .next t := by
  induction m generalizing s with
  | zero => exact ⟨s, rfl, by rwa [Nat.zero_add] at h⟩
  | succ m ih =>
    rw [Nat.succ_add] at h
    cases hq : step s with
    | fault r => simp [stepRun, hq] at h
    | refused r => simp [stepRun, hq] at h
    | next u =>
      rw [stepRun_succ _ s u hq] at h
      obtain ⟨v, hv, hvt⟩ := ih h
      exact ⟨v, (stepRun_succ m s u hq).trans hv, hvt⟩

/-! ### The obligations -/

/-- Settles O26: a busy step leaves ERR, and a fault of the host's step that changes it finds its bit clear. -/
theorem faultingStepChangesOnlyErr : Obligations.FaultingStepChangesOnlyErr := by
  intro s t h hne
  have hp : s.phase = .idle := by
    by_contra hp
    obtain ⟨_, _, _, _, _, _, _, _, rfl⟩ := step_busy_frame hp h
    exact hne rfl
  rw [step_idle s hp] at h
  obtain he | ⟨w, rest, c, hops, rfl⟩ := hostStep_err_or_raise h
  · exact absurd he hne
  · refine ⟨hp, w, rest, c.code - 1, hops, by cases c <;> decide, ?_, rfl⟩
    exact Bool.eq_false_iff.mpr fun hbit => hne (or_mask_of_getLsbD hbit)

/-- Settles O27: one step's added bits, and a run's. -/
theorem errIsStickyAndNeverRead : Obligations.ErrIsStickyAndNeverRead :=
  ⟨fun _ _ => step_err, fun _ _ _ => stepRun_err⟩

/-- Settles O28: the events a step adds are the same whatever the trace held. -/
theorem traceOnlyGrowsAndIsNeverRead : Obligations.TraceOnlyGrowsAndIsNeverRead := by
  intro s t h
  obtain ⟨d, evs, lv, he, htr, hl, hf⟩ := step_outputs h
  refine ⟨evs, htr, fun tr => (hf s.err tr s.level).trans ?_⟩
  rw [← he, ← hl]
  rfl

/-- Settles O29: a step that writes LEVEL answers the same state whatever LEVEL held. -/
theorem levelIsNeverRead : Obligations.LevelIsNeverRead := by
  intro s t h
  obtain ⟨d, evs, lv, he, htr, hl, hf⟩ := step_outputs h
  have hstep (l : Option Level) : step { s with level := l } = .next { t with level := lv.getD l } := by
    refine (hf s.err s.trace l).trans ?_
    rw [← he, ← htr]
    rfl
  cases lv with
  | none => exact .inr ⟨hl, hstep⟩
  | some lv =>
    have ht : ({ t with level := lv } : State) = t := by
      rw [← show t.level = lv from hl]
    exact .inl fun l => (hstep l).trans (congrArg Host.Outcome.next ht)

/-! The timings change only with their registers. -/

@[simp] theorem syncTiming_eq_iff (s t : State) : t.syncTiming = s.syncTiming ↔ t.syncH = s.syncH ∧ t.syncL = s.syncL :=
  PulseTiming.mk.injEq .. ▸ Iff.rfl

@[simp] theorem zeroTiming_eq_iff (s t : State) : t.zeroTiming = s.zeroTiming ↔ t.zeroH = s.zeroH ∧ t.zeroL = s.zeroL :=
  PulseTiming.mk.injEq .. ▸ Iff.rfl

@[simp] theorem oneTiming_eq_iff (s t : State) : t.oneTiming = s.oneTiming ↔ t.oneH = s.oneH ∧ t.oneL = s.oneL :=
  PulseTiming.mk.injEq .. ▸ Iff.rfl

/-- Settles O30: each instruction by its frame. -/
theorem registersAreWrittenByTheirWriters : Obligations.RegistersAreWrittenByTheirWriters := by
  intro i s t h
  cases i with
  | cfgout pin => cases h; simp
  | setrep n => cases h; simp
  | setplen us => cases h; simp
  | setproto => cases h; simp
  | one => obtain ⟨evs, rfl⟩ := exec_symbol_frame (.inl rfl) h; simp
  | zero ch => obtain ⟨evs, rfl⟩ := exec_symbol_frame (.inr ⟨ch, rfl⟩) h; simp
  | seladdr index => obtain ⟨hi, rfl⟩ | ⟨hi, k, rfl⟩ := exec_seladdr_cases h <;> simp [hi]
  | send c => obtain ⟨_, _, _, _, _, _, rfl⟩ := exec_send_frame h; simp

/-- Settles O42: the frame of a busy step, with the event its position gives. -/
theorem sequencerEmitsOneEventPerStep : Obligations.SequencerEmitsOneEventPerStep := by
  intro s t hp h
  obtain ⟨_, _, _, _, _, _, _, _, rfl⟩ := step_busy_frame hp h
  exact ⟨s.nextEvent, rfl, rfl, nextEvent_cases s hp⟩

/-- Settles O43: the frame of a busy step names none of these registers. -/
theorem sequencerLeavesTheConfiguration : Obligations.SequencerLeavesTheConfiguration := by
  intro s t hp h
  obtain ⟨_, _, _, _, _, _, _, _, rfl⟩ := step_busy_frame hp h
  exact ⟨rfl, rfl, rfl, rfl, rfl, rfl, rfl, rfl, rfl⟩

/-- Settles O53: ERR only gains bits, so a state gone wrong is left by none of the steps after it. -/
theorem goneWrongIsNeverFinal : Obligations.GoneWrongIsNeverFinal := by
  refine ⟨goneWrong_raise, fun s t hw h => ?_, fun n s t h hfin k hk => ?_⟩
  · have hwt : Safety.goneWrong t := goneWrong_of_stepRun ((stepRun_one s).trans h) hw
    exact ⟨hwt, fun hfin => hfin.2 hwt⟩
  · obtain ⟨m, rfl⟩ := Nat.exists_eq_add_of_le hk
    obtain ⟨u, hu, hut⟩ := stepRun_split h
    exact ⟨u, hu, fun hw => hfin.2 (goneWrong_of_stepRun hut hw)⟩

end Sys2Proof.Machine

/-! # Proofs of 41_bitstring_transmitter.md sections 1, 2 and 4: TXFRAME and its trace -/

namespace Sys2Proof.Machine

/-! ### A state after some pulses and gaps

TXFRAME changes nothing but the trace, LEVEL and the two counters of a pulse, and every part of it that follows a pulse only
appends to the trace. -/

/-- The state after events the last pulse of which is over. -/
def afterPulses (evs : List Event) (s : State) : State :=
  { s with hcnt := 0#24, lcnt := 0#24, level := some .low, trace := s.trace ++ evs }

theorem txpulse_eq_afterPulses (t : PulseTiming) (s : State) :
    txpulse t s = afterPulses (pulseEvents s.protocol s.pin t) s := txpulse_eq t s

theorem afterPulses_afterPulses (a b : List Event) (s : State) :
    afterPulses b (afterPulses a s) = afterPulses (a ++ b) s := by
  simp [afterPulses]

theorem txpulse_afterPulses (t : PulseTiming) (evs : List Event) (s : State) :
    txpulse t (afterPulses evs s) = afterPulses (evs ++ pulseEvents s.protocol s.pin t) s :=
  (txpulse_eq_afterPulses t _).trans (afterPulses_afterPulses _ _ s)

theorem emit_afterPulses (e : Event) (evs : List Event) (s : State) :
    emit e (afterPulses evs s) = afterPulses (evs ++ [e]) s := by
  simp [emit, afterPulses]

theorem symbolOp_eq_txpulse (s : State) (ch : Char8) : symbolOp s ch = txpulse (s.protocol.timing ch) s := by
  unfold symbolOp Protocol.timing
  split_ifs <;> rfl

theorem bitsEvents_cons (P : Protocol) (p : Half) (ch : Char8) (S : List Char8) :
    bitsEvents P p (ch :: S) = pulseEvents P p (P.timing ch) ++ bitsEvents P p S := List.flatMap_cons

theorem foldl_symbolOp_afterPulses (S : List Char8) (evs : List Event) (s : State) :
    S.foldl symbolOp (afterPulses evs s) = afterPulses (evs ++ bitsEvents s.protocol s.pin S) s := by
  induction S generalizing evs with
  | nil => simp [bitsEvents]
  | cons ch S ih =>
    have hhead : symbolOp (afterPulses evs s) ch =
        afterPulses (evs ++ pulseEvents s.protocol s.pin (s.protocol.timing ch)) s :=
      (symbolOp_eq_txpulse _ ch).trans (txpulse_afterPulses _ evs s)
    rw [List.foldl_cons, hhead, ih, bitsEvents_cons, List.append_assoc]

/-- An operation that emits the same events first and after a pulse emits them once for each time it is done. -/
theorem iterate_succ_eq_afterPulses {f : State → State} {evs : List Event} {s : State} (hfirst : f s = afterPulses evs s)
    (hlater : ∀ before, f (afterPulses before s) = afterPulses (before ++ evs) s) (n : Nat) :
    f^[n + 1] s = afterPulses (List.replicate (n + 1) evs).flatten s := by
  induction n with
  | zero => simpa using hfirst
  | succ n ih => rw [Function.iterate_succ_apply', ih, hlater, List.replicate_succ' (n := n + 1), List.flatten_concat]

theorem syncOp_eq (s : State) : syncOp s = afterPulses (pulseEvents s.protocol s.pin s.protocol.sync) s :=
  txpulse_eq_afterPulses s.syncTiming s

theorem syncOp_iterate_nSync (s : State) : syncOp^[nSync.toNat] s = afterPulses (syncEvents s.protocol s.pin) s :=
  iterate_succ_eq_afterPulses (syncOp_eq s) (fun before => (syncOp_eq (afterPulses before s)).trans
    (afterPulses_afterPulses before (pulseEvents s.protocol s.pin s.protocol.sync) s)) 11

/-- One repeat emits one frame (R140). -/
theorem repeatOp_eq (A C : List Char8) (s : State) :
    repeatOp A C s = afterPulses (frameEvents s.protocol s.pin A C) s := by
  simp only [repeatOp, gapsOp, gaprOp, syncOp_iterate_nSync, emit_afterPulses, foldl_symbolOp_afterPulses, frameEvents_eq]
  rfl

theorem txframeTrace_succ (P : Protocol) (p : Half) (r : Nat) (A C : List Char8) :
    txframeTrace P p (r + 1) A C = frameEvents P p A C ++ txframeTrace P p r A C := by
  simp [txframeTrace, List.replicate_succ]

theorem repeatOp_iterate_succ (A C : List Char8) (n : Nat) (s : State) :
    (repeatOp A C)^[n + 1] s = afterPulses (txframeTrace s.protocol s.pin (n + 1) A C) s :=
  iterate_succ_eq_afterPulses (repeatOp_eq A C s)
    (fun _ => (repeatOp_eq A C _).trans (afterPulses_afterPulses _ _ s)) n

/-- TXFRAME without a pin faults (R141). -/
theorem txframe_no_pin (A C : List Char8) (s : State) (hp : s.pinSet = false) :
    txframe A C s = raise .pinNotConfigured s := by
  simp [txframe, hp]

/-- TXFRAME with REPEAT 0 does nothing (R142). -/
theorem txframe_repeat_zero (A C : List Char8) (s : State) (hp : s.pinSet = true) (hr : s.repeatCount = 0#16) :
    txframe A C s = s := by
  simp [txframe, hp, hr]

/-- TXFRAME emits its frames. -/
theorem txframe_repeat_pos (A C : List Char8) (s : State) (hp : s.pinSet = true) (hr : s.repeatCount ≠ 0#16) :
    txframe A C s = afterPulses (txframeTrace s.protocol s.pin s.repeatCount.toNat A C) s := by
  obtain ⟨n, hn⟩ := Nat.exists_eq_succ_of_ne_zero (BitVec.toNat_pos_of_ne_zero hr).ne'
  rw [txframe, if_pos hp, hn]
  exact repeatOp_iterate_succ A C n s

theorem txframe_trace (A C : List Char8) (s : State) (hp : s.pinSet = true) :
    (txframe A C s).trace = s.trace ++ txframeTrace s.protocol s.pin s.repeatCount.toNat A C := by
  by_cases hr : s.repeatCount = 0#16
  · rw [txframe_repeat_zero A C s hp hr, hr]
    exact (List.append_nil _).symm
  · rw [txframe_repeat_pos A C s hp hr]
    rfl

theorem txframe_err (A C : List Char8) (s : State) (hp : s.pinSet = true) (e : BitVec 5) :
    txframe A C { s with err := e } = { txframe A C s with err := e } := by
  by_cases hr : s.repeatCount = 0#16
  · rw [txframe_repeat_zero A C { s with err := e } hp hr, txframe_repeat_zero A C s hp hr]
  · rw [txframe_repeat_pos A C { s with err := e } hp hr, txframe_repeat_pos A C s hp hr]
    rfl

/-! ### Pulses and microseconds of a trace (R145, R160) -/

theorem pulseCount_append (a b : List Event) : pulseCount (a ++ b) = pulseCount a + pulseCount b := List.countP_append

theorem pulseCount_pulseEvents (P : Protocol) (p : Half) (t : PulseTiming) : pulseCount (pulseEvents P p t) = 1 := rfl

theorem pulseCount_bitsEvents (P : Protocol) (p : Half) (S : List Char8) : pulseCount (bitsEvents P p S) = S.length := by
  induction S with
  | nil => rfl
  | cons ch S ih => rw [bitsEvents_cons, pulseCount_append, pulseCount_pulseEvents, ih, List.length_cons, Nat.add_comm]

theorem pulseCount_frameEvents (P : Protocol) (p : Half) (A C : List Char8) :
    pulseCount (frameEvents P p A C) = 12 + A.length + C.length := by
  have hsync : pulseCount (syncEvents P p) = 12 := rfl
  simp only [frameEvents_eq, pulseCount_append, hsync, pulseCount_bitsEvents]
  rfl

theorem pulseCount_txframeTrace (P : Protocol) (p : Half) (r : Nat) (A C : List Char8) :
    pulseCount (txframeTrace P p r A C) = r * (12 + A.length + C.length) := by
  induction r with
  | zero => simp [txframeTrace, pulseCount]
  | succ r ih => rw [txframeTrace_succ, pulseCount_append, ih, pulseCount_frameEvents, Nat.succ_mul, Nat.add_comm]

theorem duration_append (a b : List Event) : duration (a ++ b) = duration a + duration b := by
  simp [duration]

theorem duration_pulseEvents (P : Protocol) (p : Half) (t : PulseTiming) :
    duration (pulseEvents P p t) = P.plen.toNat * (t.high.toNat + t.low.toNat) := by
  simp [duration, pulseEvents, Event.time, pulseDur_toNat, Nat.mul_add]

/-- The microseconds of a string's pulses, from the two unit counts of each symbol. -/
theorem duration_bitsEvents (P : Protocol) (p : Half) (S : List Char8) : duration (bitsEvents P p S) =
    P.plen.toNat * (S.map fun ch => (P.timing ch).high.toNat + (P.timing ch).low.toNat).sum := by
  induction S with
  | nil => rfl
  | cons ch S ih =>
    rw [bitsEvents_cons, duration_append, duration_pulseEvents, ih, List.map_cons, List.sum_cons]
    exact (Nat.mul_add _ _ _).symm

theorem duration_syncEvents (P : Protocol) (p : Half) :
    duration (syncEvents P p) = P.plen.toNat * (12 * (P.sync.high.toNat + P.sync.low.toNat)) := by
  simp only [syncEvents, List.replicate_succ, List.replicate_zero, List.flatten_cons, List.flatten_nil, duration_append,
    duration_pulseEvents]
  simp only [duration, List.map_nil, List.sum_nil]
  ring

theorem duration_frameEvents (P : Protocol) (p : Half) (A C : List Char8) : duration (frameEvents P p A C) =
    P.plen.toNat * (12 * (P.sync.high.toNat + P.sync.low.toNat) +
      ((A ++ C).map fun ch => (P.timing ch).high.toNat + (P.timing ch).low.toNat).sum) + 5000 + 26000 := by
  have hgaps : duration [.delay 5000#24] = 5000 := rfl
  have hgapr : duration [.delay 26000#24] = 26000 := rfl
  rw [frameEvents_eq]
  simp only [duration_append, duration_syncEvents, duration_bitsEvents, hgaps, hgapr, List.map_append, List.sum_append]
  ring

theorem duration_txframeTrace (P : Protocol) (p : Half) (r : Nat) (A C : List Char8) :
    duration (txframeTrace P p r A C) = r * duration (frameEvents P p A C) := by
  induction r with
  | zero => simp [txframeTrace, duration]
  | succ r ih => rw [txframeTrace_succ, duration_append, ih, Nat.succ_mul, Nat.add_comm]

/-- The default units of every pulse, at any pulse length (00_scope.md R13). -/
def defaultUnits (plen : Half) : Protocol := ⟨plen, ⟨1#8, 2#8⟩, ⟨2#8, 1#8⟩, ⟨1#8, 2#8⟩⟩

/-- At the default units a symbol of either kind takes three pulse lengths. -/
theorem defaultUnits_timing (plen : Half) (ch : Char8) :
    ((defaultUnits plen).timing ch).high.toNat + ((defaultUnits plen).timing ch).low.toNat = 3 := by
  unfold Protocol.timing
  split_ifs <;> rfl

/-- A frame of a send at the default units (R160). -/
theorem duration_defaultUnits (plen p : Half) (r : Nat) (a : Vector Char8 42) (c : Vector Char8 26) :
    duration (txframeTrace (defaultUnits plen) p r a.toList c.toList) = r * (240 * plen.toNat + 31000) := by
  have hsync : (defaultUnits plen).sync.high.toNat + (defaultUnits plen).sync.low.toNat = 3 := rfl
  have hplen : (defaultUnits plen).plen = plen := rfl
  simp only [duration_txframeTrace, duration_frameEvents, defaultUnits_timing, hsync, hplen, List.map_const',
    List.sum_replicate, List.length_append, Vector.length_toList, smul_eq_mul]
  ring

/-! ### REPEAT is not read by a step of a send -/

/-- REPEAT is a change of state the sequencer neither reads nor overwrites. -/
theorem unread_repeatCount (n : Half) : Unread (fun s => { s with repeatCount := n }) where
  phase _ := rfl
  sub _ := rfl
  idx _ := rfl
  scnt _ := rfl
  rep _ := rfl
  setPhase _ _ := rfl
  setSub _ _ := rfl
  setIdx _ _ := rfl
  setScnt _ _ := rfl
  setRep _ _ := rfl
  setGcnt _ _ := rfl
  timing _ _ _ := rfl
  hiSet _ _ := rfl
  hiHold _ := rfl
  loSet _ := rfl
  loHold _ := rfl
  gap _ := rfl

/-- With REPEAT 0 the start of a send is no start (R142). -/
theorem seqStart_repeat_zero (s : State) (hp : s.pinSet = true) (hr : s.repeatCount = 0#16) : seqStart s = s := by
  rw [seqStart_pin s hp, if_pos hr]

theorem seqStart_err (s : State) (hp : s.pinSet = true) (e : BitVec 5) :
    seqStart { s with err := e } = { seqStart s with err := e } := by
  rw [seqStart_pin s hp, seqStart_pin { s with err := e } hp]
  by_cases hr : s.repeatCount = 0#16
  · rw [if_pos hr, if_pos hr]
  · rw [if_neg hr, if_neg hr]

/-! ### The obligations -/

/-- Settles O21: the product fits its width. -/
theorem pulseProductIsExact : Obligations.PulseProductIsExact := pulseDur_toNat

/-- Settles O34: TXFRAME by its three cases. -/
theorem txframeEmitsTheFrames : Obligations.TxframeEmitsTheFrames := by
  refine fun A C s => ⟨txframe_no_pin A C s, fun hp => ⟨?_, fun _ => txframe_trace A C s hp, txframe_err A C s hp⟩⟩
  split_ifs with hr
  · rw [txframe_repeat_zero A C s hp hr]
  · rw [txframe_repeat_pos A C s hp hr]
    rfl

/-- Settles O35: the frames of TXFRAME are equal, and a step commutes with a change of REPEAT. -/
theorem repeatCountGivesThatManyFrames : Obligations.RepeatCountGivesThatManyFrames := by
  refine ⟨fun A C s hp hr _ => ⟨txframe_repeat_zero A C s hp hr, seqStart_repeat_zero s hp hr⟩, fun A C s hp _ => ?_,
    fun A C s t n h => ?_, fun A C s e hp => ⟨txframe_err A C s hp e, seqStart_err s hp e⟩⟩
  · refine ⟨frameEvents s.protocol s.pin A C, txframe_trace A C s hp, pulseCount_frameEvents _ _ A C, ?_⟩
    rw [txframe_trace A C { s with repeatCount := 1#16 } hp]
    exact congrArg (s.trace ++ ·) (List.append_nil _)
  · have hcomm := seqStep_commute _ (unread_repeatCount n) A C s
    rw [h] at hcomm
    exact hcomm

/-- Settles O36: each frame has its length and its pulses. -/
theorem frameCountingLaw : Obligations.FrameCountingLaw := fun P p r A C =>
  ⟨txframeTrace_length P p r A C, pulseCount_txframeTrace P p r A C⟩

/-- Settles O37: each frame has its duration. -/
theorem frameDurationLaw : Obligations.FrameDurationLaw := by
  refine ⟨fun P p r A C => ?_, duration_defaultUnits⟩
  rw [duration_txframeTrace, duration_frameEvents]

end Sys2Proof.Machine

/-! # Proofs of 00_scope.md section 4: the waveform of a trace -/

namespace Sys2Proof.Machine

/-! ### Pushing a hold (R9) -/

@[simp] theorem pushSegment_zero (out : List Segment) (l : Option Level) : pushSegment out l 0 = out := if_pos rfl

theorem pushSegment_nil (l : Option Level) {t : Nat} (ht : t ≠ 0) : pushSegment [] l t = [(l, t)] := by
  simp [pushSegment, ht]

/-- A hold at the last segment's level lengthens that segment. -/
theorem pushSegment_same (out : List Segment) (l : Option Level) (t₀ t : Nat) :
    pushSegment (out ++ [(l, t₀)]) l t = out ++ [(l, t₀ + t)] := by
  unfold pushSegment
  split_ifs with ht
  · simp [ht]
  · simp

/-- A hold at another level is a segment of its own. -/
theorem pushSegment_other (out : List Segment) {l₀ l : Option Level} (t₀ : Nat) {t : Nat} (hl : l₀ ≠ l)
    (ht : t ≠ 0) :
    pushSegment (out ++ [(l₀, t₀)]) l t = out ++ [(l₀, t₀)] ++ [(l, t)] := by
  simp [pushSegment, hl, ht]

/-- All that pushing a hold can do. -/
theorem pushSegment_cases (out : List Segment) (l : Option Level) (t : Nat) :
    (t = 0 ∧ pushSegment out l t = out) ∨
    (t ≠ 0 ∧ ∃ before t₀, out = before ++ [(l, t₀)] ∧ pushSegment out l t = before ++ [(l, t₀ + t)]) ∨
    (t ≠ 0 ∧ (∀ g ∈ out.getLast?, g.1 ≠ l) ∧ pushSegment out l t = out ++ [(l, t)]) := by
  by_cases ht : t = 0
  · exact .inl ⟨ht, by rw [ht, pushSegment_zero]⟩
  · obtain rfl | ⟨before, ⟨l₀, t₀⟩, rfl⟩ := List.eq_nil_or_concat out
    · exact .inr (.inr ⟨ht, by simp, pushSegment_nil l ht⟩)
    · rw [List.concat_eq_append]
      by_cases hl : l₀ = l
      · subst hl
        exact .inr (.inl ⟨ht, before, t₀, rfl, pushSegment_same before l₀ t₀ t⟩)
      · exact .inr (.inr ⟨ht, by simpa using hl, pushSegment_other before t₀ hl ht⟩)

/-- Two holds at one level are one hold of their sum. -/
theorem pushSegment_pushSegment (out : List Segment) (l : Option Level) (a b : Nat) :
    pushSegment (pushSegment out l a) l b = pushSegment out l (a + b) := by
  obtain ⟨rfl, h⟩ | ⟨-, before, t₀, rfl, h⟩ | ⟨ha, hlast, h⟩ := pushSegment_cases out l a
  · rw [h, Nat.zero_add]
  · rw [h, pushSegment_same, pushSegment_same, Nat.add_assoc]
  · obtain ⟨h0, -⟩ | ⟨-, before, t₀, rfl, -⟩ | ⟨-, -, h'⟩ := pushSegment_cases out l (a + b)
    · omega
    · exact absurd rfl (hlast (l, t₀) (by simp))
    · rw [h, h', pushSegment_same]

theorem sum_pushSegment (out : List Segment) (l : Option Level) (t : Nat) :
    ((pushSegment out l t).map Prod.snd).sum = (out.map Prod.snd).sum + t := by
  obtain ⟨rfl, h⟩ | ⟨-, before, t₀, rfl, h⟩ | ⟨-, -, h⟩ := pushSegment_cases out l t
  · rw [h, Nat.add_zero]
  · simp [h, Nat.add_assoc]
  · simp [h]

theorem highTime_append (a b : List Segment) : highTime (a ++ b) = highTime a + highTime b := by
  simp [highTime]

theorem highTime_pushSegment_high (out : List Segment) (t : Nat) :
    highTime (pushSegment out (some .high) t) = highTime out + t := by
  have hone (n : Nat) : highTime [(some .high, n)] = n := rfl
  obtain ⟨rfl, h⟩ | ⟨-, before, t₀, rfl, h⟩ | ⟨-, -, h⟩ := pushSegment_cases out (some .high) t
  · rw [h, Nat.add_zero]
  · rw [h, highTime_append, highTime_append, hone, hone, Nat.add_assoc]
  · rw [h, highTime_append, hone]

theorem highTime_pushSegment_low (out : List Segment) (t : Nat) :
    highTime (pushSegment out (some .low) t) = highTime out := by
  have hone (n : Nat) : highTime [(some .low, n)] = 0 := rfl
  obtain ⟨-, h⟩ | ⟨-, before, t₀, rfl, h⟩ | ⟨-, -, h⟩ := pushSegment_cases out (some .low) t
  · rw [h]
  · rw [h, highTime_append, highTime_append, hone, hone]
  · rw [h, highTime_append, hone, Nat.add_zero]

/-! ### The waveform event by event -/

/-- The current level and the segments so far, after one more event. -/
def waveEvent (x : Option Level × List Segment) : Event → Option Level × List Segment
  | .pinMode _ => x
  | .pinLevel _ v => (some v, x.2)
  | .delay d => (x.1, pushSegment x.2 x.1 d.toNat)

/-- A hold not yet pushed can be pushed at once: a later hold at its level merges with it. -/
theorem waveLoop_eq_foldl (tr : List Event) (cur : Option Level) (acc : Nat) (out : List Segment) :
    waveLoop tr cur acc out = (tr.foldl waveEvent (cur, pushSegment out cur acc)).2 := by
  induction tr generalizing cur acc out with
  | nil => rfl
  | cons e rest ih =>
    cases e with
    | pinMode p => exact ih cur acc out
    | delay d =>
      refine (ih cur (acc + d.toNat) out).trans ?_
      rw [← pushSegment_pushSegment]
      rfl
    | pinLevel p v =>
      rw [waveLoop]
      split_ifs with hv
      · rw [ih, ← hv]
        rfl
      · rw [ih, pushSegment_zero]
        rfl

theorem wave_eq_foldl (tr : List Event) (start : Option Level) :
    wave tr start = (tr.foldl waveEvent (start, [])).2 := waveLoop_eq_foldl tr start 0 []

theorem sum_foldl_waveEvent (tr : List Event) (x : Option Level × List Segment) :
    ((tr.foldl waveEvent x).2.map Prod.snd).sum = (x.2.map Prod.snd).sum + duration tr := by
  induction tr generalizing x with
  | nil => rfl
  | cons e rest ih =>
    rw [List.foldl_cons, ih, ← List.singleton_append, duration_append, ← Nat.add_assoc]
    congr 1
    cases e with
    | pinMode p => rfl
    | pinLevel p v => rfl
    | delay d => exact sum_pushSegment x.2 x.1 d.toNat

/-- No segment of length 0, and no two neighbours of one level. -/
def Merged (out : List Segment) : Prop := (∀ g ∈ out, g.2 ≠ 0) ∧ out.IsChain (fun a b => a.1 ≠ b.1)

theorem merged_pushSegment {out : List Segment} (h : Merged out) (l : Option Level) (t : Nat) :
    Merged (pushSegment out l t) := by
  obtain ⟨hpos, hchain⟩ := h
  obtain ⟨-, h⟩ | ⟨ht, before, t₀, rfl, h⟩ | ⟨ht, hlast, h⟩ := pushSegment_cases out l t
  · rw [h]
    exact ⟨hpos, hchain⟩
  · rw [h]
    rw [List.isChain_append] at hchain
    refine ⟨fun g hg => ?_, List.isChain_append.mpr ⟨hchain.1, List.isChain_singleton _, ?_⟩⟩
    · obtain hg | hg := List.mem_append.mp hg
      · exact hpos g (List.mem_append_left _ hg)
      · rw [List.mem_singleton.mp hg]
        exact fun h0 => ht (Nat.eq_zero_of_add_eq_zero h0).2
    · simpa using hchain.2.2
  · rw [h]
    refine ⟨fun g hg => ?_, List.isChain_append.mpr ⟨hchain, List.isChain_singleton _, ?_⟩⟩
    · obtain hg | hg := List.mem_append.mp hg
      · exact hpos g hg
      · rwa [List.mem_singleton.mp hg]
    · simpa using hlast

theorem merged_foldl_waveEvent (tr : List Event) (x : Option Level × List Segment) (h : Merged x.2) :
    Merged (tr.foldl waveEvent x).2 := by
  induction tr generalizing x with
  | nil => exact h
  | cons e rest ih =>
    refine ih (waveEvent x e) ?_
    cases e with
    | pinMode p => exact h
    | pinLevel p v => exact h
    | delay d => exact merged_pushSegment h x.1 d.toNat

/-! ### The waveform of a frame -/

/-- The segments after one more pulse (R121). -/
def addPulse (plen : Half) (out : List Segment) (t : PulseTiming) : List Segment :=
  pushSegment (pushSegment out (some .high) (plen.toNat * t.high.toNat)) (some .low) (plen.toNat * t.low.toNat)

/-- A pulse leaves the level LOW, whatever it was. -/
theorem foldl_waveEvent_pulseEvents (P : Protocol) (p : Half) (t : PulseTiming) (x : Option Level × List Segment) :
    (pulseEvents P p t).foldl waveEvent x = (some .low, addPulse P.plen x.2 t) := by
  simp [pulseEvents, waveEvent, addPulse, pulseDur_toNat]

theorem foldl_waveEvent_pulses (P : Protocol) (p : Half) (ts : List PulseTiming) (out : List Segment) :
    (ts.flatMap (pulseEvents P p)).foldl waveEvent (some .low, out) = (some .low, ts.foldl (addPulse P.plen) out) := by
  induction ts generalizing out with
  | nil => rfl
  | cons t ts ih => rw [List.flatMap_cons, List.foldl_append, foldl_waveEvent_pulseEvents, ih, List.foldl_cons]

theorem syncEvents_eq_flatMap (P : Protocol) (p : Half) :
    syncEvents P p = (List.replicate 12 P.sync).flatMap (pulseEvents P p) := rfl

theorem bitsEvents_eq_flatMap (P : Protocol) (p : Half) (S : List Char8) :
    bitsEvents P p S = (S.map P.timing).flatMap (pulseEvents P p) := by
  rw [List.flatMap_map]
  rfl

/-- The segments after one more frame: its pulses and its two gaps. -/
def addFrame (P : Protocol) (A C : List Char8) (out : List Segment) : List Segment :=
  let sync := (List.replicate 12 P.sync).foldl (addPulse P.plen) out
  let addr := (A.map P.timing).foldl (addPulse P.plen) (pushSegment sync (some .low) 5000)
  let cmd := (C.map P.timing).foldl (addPulse P.plen) addr
  pushSegment cmd (some .low) 26000

theorem foldl_waveEvent_frame (P : Protocol) (p : Half) (A C : List Char8) (out : List Segment) :
    (frameEvents P p A C).foldl waveEvent (some .low, out) = (some .low, addFrame P A C out) := by
  simp only [frameEvents_eq, List.foldl_append, syncEvents_eq_flatMap, bitsEvents_eq_flatMap, foldl_waveEvent_pulses,
    List.foldl_cons, List.foldl_nil, waveEvent, addFrame]
  rfl

theorem foldl_waveEvent_txframeTrace (P : Protocol) (p : Half) (r : Nat) (A C : List Char8) (out : List Segment) :
    (txframeTrace P p r A C).foldl waveEvent (some .low, out) = (some .low, (addFrame P A C)^[r] out) := by
  induction r generalizing out with
  | zero => rfl
  | succ r ih => rw [txframeTrace_succ, List.foldl_append, foldl_waveEvent_frame, ih, Function.iterate_succ_apply]

/-- The first event of a frame drives the pin, so the start level is never held. -/
theorem foldl_waveEvent_frame_start (P : Protocol) (p : Half) (A C : List Char8) (start : Option Level) :
    (frameEvents P p A C).foldl waveEvent (start, []) = (frameEvents P p A C).foldl waveEvent (some .low, []) := rfl

/-- The waveform of a send, frame by frame, from any start level. -/
theorem wave_txframeTrace (P : Protocol) (p : Half) (r : Nat) (A C : List Char8) (start : Option Level) :
    wave (txframeTrace P p r A C) start = (addFrame P A C)^[r] [] := by
  rw [wave_eq_foldl]
  cases r with
  | zero => rfl
  | succ r =>
    rw [txframeTrace_succ, List.foldl_append, foldl_waveEvent_frame_start, ← List.foldl_append, ← txframeTrace_succ,
      foldl_waveEvent_txframeTrace]

/-! ### The high time of a frame (R160) -/

theorem highTime_foldl_addPulse (plen : Half) (ts : List PulseTiming) (out : List Segment) :
    highTime (ts.foldl (addPulse plen) out) = highTime out + plen.toNat * (ts.map fun t => t.high.toNat).sum := by
  induction ts generalizing out with
  | nil => rfl
  | cons t ts ih =>
    rw [List.foldl_cons, ih, addPulse, highTime_pushSegment_low, highTime_pushSegment_high, List.map_cons, List.sum_cons]
    ring

/-- A string's symbols by the character each is. -/
theorem sum_high_timing (P : Protocol) (S : List Char8) : ((S.map P.timing).map fun t => t.high.toNat).sum =
    P.one.high.toNat * S.countP (· == 0x31#8) + P.zero.high.toNat * S.countP (· != 0x31#8) := by
  induction S with
  | nil => rfl
  | cons ch S ih =>
    rw [List.map_cons, List.map_cons, List.sum_cons, ih, List.countP_cons, List.countP_cons]
    by_cases hch : ch = 0x31#8
    · simp [hch, show P.timing 0x31#8 = P.one from P.timing_charOne]
      ring
    · simp [hch, P.timing_of_ne hch]
      ring

theorem highTime_addFrame (P : Protocol) (A C : List Char8) (out : List Segment) :
    highTime (addFrame P A C out) = highTime out + P.plen.toNat * (12 * P.sync.high.toNat +
      P.one.high.toNat * (A ++ C).countP (· == 0x31#8) + P.zero.high.toNat * (A ++ C).countP (· != 0x31#8)) := by
  simp only [addFrame, highTime_pushSegment_low, highTime_foldl_addPulse, sum_high_timing, List.countP_append,
    List.map_replicate, List.sum_replicate, smul_eq_mul]
  ring

/-! ### The segments of a frame -/

/-- The last segment is LOW. -/
def EndsLow (out : List Segment) : Prop := ∃ before t, out = before ++ [(some .low, t)]

/-- A gap after a pulse lengthens the pulse's LOW segment. -/
theorem endsLow_pushSegment_low {out : List Segment} (h : EndsLow out) (t : Nat) :
    EndsLow (pushSegment out (some .low) t) ∧ (pushSegment out (some .low) t).length = out.length := by
  obtain ⟨before, t₀, rfl⟩ := h
  rw [pushSegment_same]
  exact ⟨⟨before, t₀ + t, rfl⟩, by simp⟩

/-- Both holds of a pulse last. -/
def Lasts (plen : Half) (t : PulseTiming) : Prop := plen.toNat * t.high.toNat ≠ 0 ∧ plen.toNat * t.low.toNat ≠ 0

theorem endsLow_addPulse {plen : Half} {t : PulseTiming} {out : List Segment} (ht : Lasts plen t)
    (h : out = [] ∨ EndsLow out) :
    EndsLow (addPulse plen out t) ∧ (addPulse plen out t).length = out.length + 2 := by
  obtain ⟨hhigh, hlow⟩ := ht
  have hne : some Level.high ≠ some Level.low := by decide
  have hpush : pushSegment out (some .high) (plen.toNat * t.high.toNat) =
      out ++ [(some .high, plen.toNat * t.high.toNat)] := by
    obtain rfl | ⟨before, t₀, rfl⟩ := h
    · exact pushSegment_nil _ hhigh
    · exact pushSegment_other before t₀ hne.symm hhigh
  rw [addPulse, hpush, pushSegment_other out _ hne hlow]
  exact ⟨⟨_, _, rfl⟩, by simp⟩

theorem endsLow_foldl_addPulse {plen : Half} {ts : List PulseTiming} (hts : ∀ t ∈ ts, Lasts plen t) {out : List Segment}
    (h : EndsLow out) : EndsLow (ts.foldl (addPulse plen) out) ∧
      (ts.foldl (addPulse plen) out).length = out.length + 2 * ts.length := by
  induction ts generalizing out with
  | nil => exact ⟨h, rfl⟩
  | cons t ts ih =>
    obtain ⟨hpulse, hlen⟩ := endsLow_addPulse (hts t List.mem_cons_self) (.inr h)
    obtain ⟨hend, hlen'⟩ := ih (fun u hu => hts u (List.mem_cons_of_mem t hu)) hpulse
    refine ⟨hend, ?_⟩
    rw [List.foldl_cons, hlen', hlen, List.length_cons]
    omega

/-- The twelve sync pulses leave a LOW segment even when they are the first. -/
theorem endsLow_sync {P : Protocol} (hs : Lasts P.plen P.sync) {out : List Segment} (h : out = [] ∨ EndsLow out) :
    EndsLow ((List.replicate 12 P.sync).foldl (addPulse P.plen) out) ∧
      ((List.replicate 12 P.sync).foldl (addPulse P.plen) out).length = out.length + 24 := by
  obtain ⟨hfirst, hlen⟩ := endsLow_addPulse hs h
  obtain ⟨hend, hlen'⟩ := endsLow_foldl_addPulse (ts := List.replicate 11 P.sync)
    (fun t ht => List.eq_of_mem_replicate ht ▸ hs) hfirst
  refine ⟨hend, hlen'.trans ?_⟩
  rw [hlen, List.length_replicate]

theorem endsLow_addFrame {P : Protocol} (hs : Lasts P.plen P.sync) (htiming : ∀ ch, Lasts P.plen (P.timing ch))
    (A C : List Char8) {out : List Segment} (h : out = [] ∨ EndsLow out) :
    EndsLow (addFrame P A C out) ∧ (addFrame P A C out).length = out.length + 2 * (12 + A.length + C.length) := by
  have hmap (S : List Char8) : ∀ t ∈ S.map P.timing, Lasts P.plen t := by
    intro t ht
    obtain ⟨ch, -, rfl⟩ := List.mem_map.mp ht
    exact htiming ch
  obtain ⟨hsync, lsync⟩ := endsLow_sync hs h
  obtain ⟨hgap, lgap⟩ := endsLow_pushSegment_low hsync 5000
  obtain ⟨haddr, laddr⟩ := endsLow_foldl_addPulse (hmap A) hgap
  obtain ⟨hcmd, lcmd⟩ := endsLow_foldl_addPulse (hmap C) haddr
  obtain ⟨hend, lend⟩ := endsLow_pushSegment_low hcmd 26000
  refine ⟨hend, lend.trans ?_⟩
  rw [lcmd, laddr, lgap, lsync, List.length_map, List.length_map]
  omega

theorem length_addFrame_iterate {P : Protocol} (hs : Lasts P.plen P.sync) (htiming : ∀ ch, Lasts P.plen (P.timing ch))
    (A C : List Char8) (r : Nat) {out : List Segment} (h : out = [] ∨ EndsLow out) :
    ((addFrame P A C)^[r] out).length = out.length + r * (2 * (12 + A.length + C.length)) := by
  induction r generalizing out with
  | zero => simp
  | succ r ih =>
    obtain ⟨hend, hlen⟩ := endsLow_addFrame hs htiming A C h
    rw [Function.iterate_succ_apply, ih (.inr hend), hlen]
    ring

theorem lasts_of_ne_zero {plen : Half} {t : PulseTiming} (hp : plen ≠ 0#16) (hh : t.high ≠ 0#8) (hl : t.low ≠ 0#8) :
    Lasts plen t :=
  ⟨(Nat.mul_pos (BitVec.toNat_pos_of_ne_zero hp) (BitVec.toNat_pos_of_ne_zero hh)).ne',
    (Nat.mul_pos (BitVec.toNat_pos_of_ne_zero hp) (BitVec.toNat_pos_of_ne_zero hl)).ne'⟩

/-- With pulse length 0 a pulse leaves no segment (90_conflicts.md C10). -/
theorem foldl_addPulse_zero (ts : List PulseTiming) (out : List Segment) : ts.foldl (addPulse 0#16) out = out := by
  induction ts with
  | nil => rfl
  | cons t ts ih => simpa [addPulse] using ih

theorem addFrame_zero {P : Protocol} (hp : P.plen = 0#16) (A C : List Char8) (out : List Segment) :
    addFrame P A C out = pushSegment out (some .low) 31000 := by
  simp only [addFrame, hp, foldl_addPulse_zero, pushSegment_pushSegment]

theorem addFrame_iterate_zero {P : Protocol} (hp : P.plen = 0#16) (A C : List Char8) (r : Nat) :
    (addFrame P A C)^[r] [] = pushSegment [] (some .low) (r * 31000) := by
  induction r with
  | zero => rfl
  | succ r ih => rw [Function.iterate_succ_apply', ih, addFrame_zero hp, pushSegment_pushSegment, Nat.succ_mul]

/-! ### The obligations -/

/-- Settles O22: the waveform of the four events of a pulse. -/
theorem txpulseWaveform : Obligations.TxpulseWaveform := by
  intro t s start
  refine ⟨pulseEvents s.protocol s.pin t, by rw [txpulse_eq], ?_, duration_pulseEvents s.protocol s.pin t⟩
  rw [wave_eq_foldl, foldl_waveEvent_pulseEvents]
  show addPulse s.plen [] t = _
  unfold addPulse
  split_ifs with hhigh hlow hlow
  · rw [hhigh, hlow]
    rfl
  · rw [hhigh, pushSegment_zero, pushSegment_nil _ hlow]
    rfl
  · rw [hlow, pushSegment_zero, pushSegment_nil _ hhigh]
    rfl
  · rw [pushSegment_nil _ hhigh]
    exact pushSegment_other [] _ (by decide) hlow

/-- Settles O38: only the pulses of a frame add to its high time. -/
theorem frameHighTimeLaw : Obligations.FrameHighTimeLaw := by
  intro P p r A C start
  rw [wave_txframeTrace]
  induction r with
  | zero => simp [highTime]
  | succ r ih => rw [Function.iterate_succ_apply', highTime_addFrame, ih, Nat.succ_mul r]

/-- Settles O39: two segments a pulse that lasts, and none where the pulse length is 0. -/
theorem frameWaveformSegments : Obligations.FrameWaveformSegments := by
  intro P p r A C start
  rw [wave_txframeTrace]
  refine ⟨fun hp hsh hsl hzh hzl hoh hol => ?_, fun hp => ?_⟩
  · have htiming (ch : Char8) : Lasts P.plen (P.timing ch) := by
      unfold Protocol.timing
      split_ifs
      · exact lasts_of_ne_zero hp hoh hol
      · exact lasts_of_ne_zero hp hzh hzl
    rw [length_addFrame_iterate (lasts_of_ne_zero hp hsh hsl) htiming A C r (.inl rfl), List.length_nil, Nat.zero_add]
  · rw [addFrame_iterate_zero hp]
    split_ifs with hr
    · rw [hr]
      rfl
    · exact pushSegment_nil _ (by omega)

/-- Settles O40: pushing a hold adds its microseconds. -/
theorem waveformKeepsTime : Obligations.WaveformKeepsTime := by
  intro tr start
  rw [wave_eq_foldl, sum_foldl_waveEvent]
  exact Nat.zero_add _

/-- Settles O41: pushing a hold keeps the segments merged. -/
theorem waveformIsMerged : Obligations.WaveformIsMerged := by
  intro tr start
  have hm : Merged (wave tr start) := by
    rw [wave_eq_foldl]
    exact merged_foldl_waveEvent tr (start, []) ⟨by simp, List.isChain_nil⟩
  exact ⟨hm.1, fun l r a b h => List.isChain_iff_forall_rel_of_append_cons_cons.mp hm.2 h⟩

end Sys2Proof.Machine

/-! # Proofs of 41_bitstring_transmitter.md section 3: runs of the sequencer -/

namespace Sys2Proof.Machine

/-! ### Runs that stay busy -/

theorem seqRun_one (A C : List Char8) (s : State) : seqRun A C 1 s = seqStep A C s := by
  cases h : seqStep A C s <;> simp [seqRun, h]

/-- An idle sequencer has no step (R150). -/
theorem seqRun_idle (A C : List Char8) (n : Nat) (s : State) (hp : s.phase = .idle) : seqRun A C n s = .next s := by
  induction n with
  | zero => rfl
  | succ n ih =>
    have hstep : seqStep A C s = .next s := by simp [seqStep, hp]
    simp only [seqRun, hstep, ih]

/-- A run that answers has answered at every step before its last. -/
theorem seqRun_split {A C : List Char8} {m n : Nat} {s t : State} (h : seqRun A C (m + n) s = .next t) :
    ∃ u, seqRun A C m s = .next u ∧ seqRun A C n u = .next t := by
  induction m generalizing s with
  | zero => exact ⟨s, rfl, by rwa [Nat.zero_add] at h⟩
  | succ m ih =>
    rw [Nat.succ_add] at h
    cases hq : seqStep A C s with
    | fault r => simp [seqRun, hq] at h
    | refused r => simp [seqRun, hq] at h
    | next u =>
      simp only [seqRun, hq] at h ⊢
      exact ih h

/-- A run that ends busy was busy all along. -/
theorem seqRun_busy_before {A C : List Char8} {n k : Nat} {s t : State} (h : seqRun A C n s = .next t)
    (ht : t.phase ≠ .idle) (hk : k ≤ n) : ∃ u, seqRun A C k s = .next u ∧ u.phase ≠ .idle := by
  obtain ⟨m, rfl⟩ := Nat.exists_eq_add_of_le hk
  obtain ⟨u, hu, hut⟩ := seqRun_split h
  refine ⟨u, hu, fun hidle => ht ?_⟩
  rw [seqRun_idle A C m u hidle] at hut
  cases hut
  exact hidle

/-- A run of the sequencer that ends busy is the machine's. -/
theorem stepRun_of_seqRun_busy {n : Nat} {s t : State} (h : seqRun s.addr.toList s.code.toList n s = .next t)
    (ht : t.phase ≠ .idle) : stepRun n s = .next t :=
  stepRun_of_seqRun n s t h fun _ hk => seqRun_busy_before h ht hk.le

/-! ### The state inside a frame

Before a pulse, and in a gap, a send that began in the state `s` stands at `s` with the events of its pulses and gaps so far, and
the position in SEQ. -/

/-- The state after events, in a phase, with SCNT, IDX and GCNT. -/
def seqAt (evs : List Event) (ph : Phase) (n : BitVec 4) (i : BitVec 6) (g : Dur) (s : State) : State :=
  { afterPulses evs s with phase := ph, scnt := n, idx := i, sub := .hiSet, gcnt := g }

section

variable (A C : List Char8) (evs : List Event) (ph : Phase) (n : BitVec 4) (i : BitVec 6) (g : Dur) (s : State)

theorem afterPulses_eq_seqAt (hs : s.sub = .hiSet) :
    afterPulses evs s = seqAt evs s.phase s.scnt s.idx s.gcnt s := by
  simp [seqAt, afterPulses, hs]

theorem afterPulses_seqAt (later : List Event) :
    afterPulses later (seqAt evs ph n i g s) = seqAt (evs ++ later) ph n i g s := by
  simp [seqAt, afterPulses]

theorem gapHold_seqAt : gapHold (seqAt evs ph n i g s) = seqAt (evs ++ [.delay g]) ph n i 0#24 s := by
  simp [gapHold, emit, seqAt, afterPulses]

theorem enterCmd_seqAt : enterCmd C (seqAt evs ph n i g s) =
    if C = [] then seqAt evs .gapr n i 26000#24 s else seqAt evs .cmd n 0#6 g s := by
  split_ifs with hC
  · rw [hC, enterCmd_nil]
    rfl
  · rw [enterCmd_cons C hC]
    rfl

theorem enterAddr_seqAt : enterAddr A C (seqAt evs ph n i g s) =
    if A = [] then enterCmd C (seqAt evs ph n i g s) else seqAt evs .addr n 0#6 g s := by
  split_ifs with hA
  · rw [hA, enterAddr_nil]
  · rw [enterAddr_cons A C hA]
    rfl

/-- Four steps from a position before a pulse are the pulse and the advance. -/
theorem seqRun_pulse_seqAt {tm : PulseTiming} (hp : (seqAt evs ph n i g s).inPulse)
    (ht : curTiming A C (seqAt evs ph n i g s) = some tm) : seqRun A C 4 (seqAt evs ph n i g s) =
      .next (advance A C (seqAt (evs ++ pulseEvents s.protocol s.pin tm) ph n i g s)) := by
  rw [seqRun_pulse A C (seqAt evs ph n i g s) tm hp rfl ht, txpulse_eq_afterPulses, afterPulses_seqAt]
  rfl

/-! ### The sync section -/

theorem advance_sync_seqAt : advance A C (seqAt evs .sync n i g s) =
    if n = 1#4 then seqAt evs .gaps 0#4 i 5000#24 s else seqAt evs .sync (n - 1#4) i g s := by
  split_ifs with hn
  · rw [advance_sync_last A C (seqAt evs .sync n i g s) rfl hn]
    rfl
  · rw [advance_sync_more A C (seqAt evs .sync n i g s) rfl hn]
    rfl

end

/-- The sync pulses left, and the change to the 5000 µs gap. -/
theorem seqRun_sync (A C : List Char8) (evs : List Event) (m : Nat) (n : BitVec 4) (i : BitVec 6) (g : Dur) (s : State)
    (hn : n.toNat = m + 1) : seqRun A C (4 * (m + 1)) (seqAt evs .sync n i g s) = .next
      (seqAt (evs ++ (List.replicate (m + 1) (pulseEvents s.protocol s.pin s.protocol.sync)).flatten) .gaps 0#4 i 5000#24 s) := by
  have hpulse (evs : List Event) (n : BitVec 4) : seqRun A C 4 (seqAt evs .sync n i g s) =
      .next (advance A C (seqAt (evs ++ pulseEvents s.protocol s.pin s.protocol.sync) .sync n i g s)) :=
    seqRun_pulse_seqAt A C evs .sync n i g s (.inl rfl) (curTiming_sync A C _ rfl)
  induction m generalizing evs n with
  | zero =>
    have hlast : n = 1#4 := BitVec.eq_of_toNat_eq hn
    rw [Nat.zero_add, Nat.mul_one, hpulse, advance_sync_seqAt, if_pos hlast, List.replicate_one, List.flatten_singleton]
  | succ m ih =>
    have hmore : n ≠ 1#4 := fun h => by simp [h] at hn
    have hdown : (n - 1#4).toNat = m + 1 := by bv_omega
    have hfirst := hpulse evs n
    rw [advance_sync_seqAt, if_neg hmore] at hfirst
    rw [show 4 * (m + 1 + 1) = 4 + 4 * (m + 1) by omega, seqRun_add A C 4 _ _ _ hfirst, ih _ _ hdown,
      List.replicate_succ (n := m + 1), List.flatten_cons, List.append_assoc]

/-- The whole sync section, from the state in which a repeat begins: the first pulse leaves LEVEL and the counters as the later
ones find them. -/
theorem seqRun_sync_section (A C : List Char8) (s : State) (hp : s.phase = .sync) (hs : s.sub = .hiSet)
    (hn : s.scnt = 12#4) :
    seqRun A C 48 s = .next (seqAt (syncEvents s.protocol s.pin) .gaps 0#4 s.idx 5000#24 s) := by
  have hmore : (12#4 : BitVec 4) ≠ 1#4 := by decide
  have hfirst := seqRun_pulse A C s s.syncTiming (.inl hp) hs (curTiming_sync A C s hp)
  rw [txpulse_eq_afterPulses, afterPulses_eq_seqAt _ s hs, hp, hn, advance_sync_seqAt, if_neg hmore] at hfirst
  have hrest := seqRun_sync A C (pulseEvents s.protocol s.pin s.syncTiming) 10 (12#4 - 1#4) s.idx s.gcnt s rfl
  exact (seqRun_add A C 4 44 s _ hfirst).trans hrest

/-! ### The sections of a string -/

/-- A phase that sends the string `S` pulse by pulse and ends with `exit`. -/
structure IsSection (A C S : List Char8) (ph : Phase) (exit : State → State) : Prop where
  inPulse : ∀ u : State, u.phase = ph → u.inPulse
  timing : ∀ u : State, u.phase = ph → curTiming A C u = u.symbolTiming S u.idx
  last : ∀ u : State, u.phase = ph → (u.idx + 1#6).toNat = S.length → advance A C u = exit { u with idx := u.idx + 1#6 }
  more : ∀ u : State, u.phase = ph → (u.idx + 1#6).toNat ≠ S.length → advance A C u = { u with idx := u.idx + 1#6 }

theorem isSection_addr (A C : List Char8) : IsSection A C A .addr (enterCmd C) where
  inPulse _ hp := .inr (.inl hp)
  timing u hp := curTiming_addr A C u hp
  last u hp h := advance_addr_last A C u hp h
  more u hp h := advance_addr_more A C u hp h

theorem isSection_cmd (A C : List Char8) : IsSection A C C .cmd enterGapr where
  inPulse _ hp := .inr (.inr hp)
  timing u hp := curTiming_cmd A C u hp
  last u hp h := advance_cmd_last A C u hp h
  more u hp h := advance_cmd_more A C u hp h

/-- One symbol of a section: its pulse, and the advance. -/
theorem seqRun_symbol {A C S : List Char8} {ph : Phase} {exit : State → State} (hsec : IsSection A C S ph exit)
    (evs : List Event) (n : BitVec 4) (i : BitVec 6) (g : Dur) (s : State) (hi : i.toNat < S.length) :
    seqRun A C 4 (seqAt evs ph n i g s) = .next
      (advance A C (seqAt (evs ++ pulseEvents s.protocol s.pin (s.protocol.timing S[i.toNat])) ph n i g s)) :=
  seqRun_pulse_seqAt A C evs ph n i g s (hsec.inPulse _ rfl)
    ((hsec.timing _ rfl).trans (symbolTiming_some _ S i _ (List.getElem?_eq_getElem hi)))

/-- The symbols left of a section, and its end, with IDX past the string. -/
theorem seqRun_section {A C S : List Char8} {ph : Phase} {exit : State → State} (hsec : IsSection A C S ph exit)
    (hlen : S.length ≤ 63) (evs : List Event) (m : Nat) (n : BitVec 4) (i : BitVec 6) (g : Dur) (s : State)
    (hi : i.toNat + (m + 1) = S.length) : seqRun A C (4 * (m + 1)) (seqAt evs ph n i g s) = .next
      (exit (seqAt (evs ++ bitsEvents s.protocol s.pin (S.drop i.toNat)) ph n (BitVec.ofNat 6 S.length) g s)) := by
  induction m generalizing evs i with
  | zero =>
    have hlt : i.toNat < S.length := by omega
    have hnext : (i + 1#6).toNat = S.length := by bv_omega
    have hidx : i + 1#6 = BitVec.ofNat 6 S.length := by rw [← hnext, BitVec.ofNat_toNat, BitVec.setWidth_eq]
    rw [Nat.zero_add, Nat.mul_one, seqRun_symbol hsec evs n i g s hlt, hsec.last _ rfl hnext,
      List.drop_eq_getElem_cons hlt, List.drop_eq_nil_of_le (by omega), bitsEvents_cons, ← hidx]
    simp only [bitsEvents, List.flatMap_nil, List.append_nil]
    rfl
  | succ m ih =>
    have hlt : i.toNat < S.length := by omega
    have hnext : (i + 1#6).toNat = i.toNat + 1 := by bv_omega
    have hmore : (i + 1#6).toNat ≠ S.length := by omega
    have hfirst := seqRun_symbol hsec evs n i g s hlt
    rw [hsec.more _ rfl hmore] at hfirst
    rw [show 4 * (m + 1 + 1) = 4 + 4 * (m + 1) by omega, seqRun_add A C 4 _ _ _ hfirst]
    refine (ih _ (i + 1#6) (by omega)).trans ?_
    rw [hnext, List.drop_eq_getElem_cons hlt, bitsEvents_cons, ← List.append_assoc]

/-- A whole section from its first symbol. -/
theorem seqRun_whole_section {A C S : List Char8} {ph : Phase} {exit : State → State} (hsec : IsSection A C S ph exit)
    (hlen : S.length ≤ 63) (hS : S ≠ []) (evs : List Event) (n : BitVec 4) (g : Dur) (s : State) :
    seqRun A C (4 * S.length) (seqAt evs ph n 0#6 g s) = .next
      (exit (seqAt (evs ++ bitsEvents s.protocol s.pin S) ph n (BitVec.ofNat 6 S.length) g s)) := by
  obtain ⟨m, hm⟩ := Nat.exists_eq_succ_of_ne_zero (List.length_pos_iff.mpr hS).ne'
  rw [show 4 * S.length = 4 * (m + 1) by omega]
  exact seqRun_section hsec hlen evs m n 0#6 g s (by simp [hm])

/-- Where IDX stands at the end of a repeat: past the last string that is not empty. -/
def endIdx (A C : List Char8) (i : BitVec 6) : BitVec 6 :=
  if C = [] then (if A = [] then i else BitVec.ofNat 6 A.length) else BitVec.ofNat 6 C.length

theorem endIdx_endIdx (A C : List Char8) (i : BitVec 6) : endIdx A C (endIdx A C i) = endIdx A C i := by
  unfold endIdx
  split_ifs <;> rfl

/-- The command section, if there is one, up to the 26000 µs gap. -/
theorem seqRun_enterCmd (A C : List Char8) (hC : C.length ≤ 63) (evs : List Event) (ph : Phase) (n : BitVec 4) (i : BitVec 6)
    (g : Dur) (s : State) : seqRun A C (4 * C.length) (enterCmd C (seqAt evs ph n i g s)) = .next
      (seqAt (evs ++ bitsEvents s.protocol s.pin C) .gapr n (if C = [] then i else BitVec.ofNat 6 C.length) 26000#24 s) := by
  rw [enterCmd_seqAt]
  split_ifs with h
  · simp [h, bitsEvents, seqRun]
  · rw [seqRun_whole_section (isSection_cmd A C) hC h]
    rfl

/-- Both sections, from the end of the 5000 µs gap to the 26000 µs gap. -/
theorem seqRun_enterAddr (A C : List Char8) (hA : A.length ≤ 63) (hC : C.length ≤ 63) (evs : List Event) (ph : Phase)
    (n : BitVec 4) (i : BitVec 6) (g : Dur) (s : State) :
    seqRun A C (4 * A.length + 4 * C.length) (enterAddr A C (seqAt evs ph n i g s)) = .next
      (seqAt (evs ++ bitsEvents s.protocol s.pin A ++ bitsEvents s.protocol s.pin C) .gapr n (endIdx A C i) 26000#24 s) := by
  rw [enterAddr_seqAt]
  by_cases h : A = []
  · rw [if_pos h]
    simpa [h, endIdx, bitsEvents] using seqRun_enterCmd A C hC evs ph n i g s
  · rw [if_neg h, seqRun_add A C _ _ _ _ (seqRun_whole_section (isSection_addr A C) hA h evs n g s),
      seqRun_enterCmd A C hC, endIdx, if_neg h]

/-! ### A repeat, and a send -/

theorem endRepeat_seqAt (evs : List Event) (n : BitVec 4) (i : BitVec 6) (g : Dur) (s : State) :
    endRepeat (seqAt evs .gapr n i g s) =
      if s.rep = 1#16 then { seqAt evs .idle n i g s with rep := 0#16 }
      else { seqAt evs .sync 12#4 i g s with rep := s.rep - 1#16 } := by
  split_ifs with hr
  · rw [endRepeat_last (seqAt evs .gapr n i g s) hr]
    rfl
  · rw [endRepeat_more (seqAt evs .gapr n i g s) hr]
    rfl

/-- A repeat up to its last step, the Delay of the 26000 µs gap, and that step. -/
theorem seqRun_frame (A C : List Char8) (hA : A.length ≤ 63) (hC : C.length ≤ 63) (s : State) (hp : s.phase = .sync)
    (hs : s.sub = .hiSet) (hn : s.scnt = 12#4) :
    ∃ v, seqRun A C (4 * (12 + A.length + C.length) + 1) s = .next v ∧ v.phase = .gapr ∧
      seqStep A C v =
        .next (endRepeat (seqAt (frameEvents s.protocol s.pin A C) .gapr 0#4 (endIdx A C s.idx) 0#24 s)) := by
  have hsync := seqRun_sync_section A C s hp hs hn
  have hgap : seqRun A C 1 (seqAt (syncEvents s.protocol s.pin) .gaps 0#4 s.idx 5000#24 s) = .next
      (enterAddr A C (seqAt (syncEvents s.protocol s.pin ++ [.delay 5000#24]) .gaps 0#4 s.idx 0#24 s)) := by
    rw [seqRun_one, seqStep_gaps A C _ rfl, gapHold_seqAt]
  have hstrings := seqRun_enterAddr A C hA hC (syncEvents s.protocol s.pin ++ [.delay 5000#24]) .gaps 0#4 s.idx 0#24 s
  have hrun := (seqRun_add A C 48 (1 + (4 * A.length + 4 * C.length)) s _ hsync).trans
    ((seqRun_add A C 1 _ _ _ hgap).trans hstrings)
  have hcount : 4 * (12 + A.length + C.length) + 1 = 48 + (1 + (4 * A.length + 4 * C.length)) := by omega
  refine ⟨_, hcount ▸ hrun, rfl, ?_⟩
  rw [seqStep_gapr A C _ rfl, gapHold_seqAt, ← frameEvents_eq]

/-- The repeats left of a send, up to its last step, and that step (R156, R158). -/
theorem seqRun_repeats (A C : List Char8) (hA : A.length ≤ 63) (hC : C.length ≤ 63) (r : Nat) (s : State)
    (hp : s.phase = .sync) (hs : s.sub = .hiSet) (hn : s.scnt = 12#4) (hr : s.rep.toNat = r + 1) :
    ∃ v, seqRun A C (r * (4 * (12 + A.length + C.length) + 2) + (4 * (12 + A.length + C.length) + 1)) s = .next v ∧
      v.phase = .gapr ∧ seqStep A C v = .next
        { seqAt (txframeTrace s.protocol s.pin (r + 1) A C) .idle 0#4 (endIdx A C s.idx) 0#24 s with rep := 0#16 } := by
  induction r generalizing s with
  | zero =>
    obtain ⟨v, hrun, hv, hstep⟩ := seqRun_frame A C hA hC s hp hs hn
    rw [endRepeat_seqAt, if_pos (BitVec.eq_of_toNat_eq hr)] at hstep
    refine ⟨v, by rwa [Nat.zero_mul, Nat.zero_add], hv, ?_⟩
    rw [hstep, txframeTrace_succ]
    simp [txframeTrace]
  | succ r ih =>
    have hmore : s.rep ≠ 1#16 := fun h => by simp [h] at hr
    obtain ⟨v, hrun, -, hstep⟩ := seqRun_frame A C hA hC s hp hs hn
    rw [endRepeat_seqAt, if_neg hmore] at hstep
    have hfirst : seqRun A C (4 * (12 + A.length + C.length) + 2) s = _ :=
      (seqRun_add A C _ 1 s v hrun).trans ((seqRun_one A C v).trans hstep)
    obtain ⟨w, hrun', hw, hlast⟩ := ih { seqAt (frameEvents s.protocol s.pin A C) .sync 12#4 (endIdx A C s.idx) 0#24 s with
      rep := s.rep - 1#16 } rfl rfl rfl (show (s.rep - 1#16).toNat = r + 1 by bv_omega)
    refine ⟨w, ?_, hw, hlast.trans ?_⟩
    · rw [Nat.succ_mul, Nat.add_comm (r * _), Nat.add_assoc, seqRun_add A C _ _ s _ hfirst]
      exact hrun'
    · rw [txframeTrace_succ _ _ (r + 1)]
      simp [seqAt, afterPulses, endIdx_endIdx, State.protocol, State.syncTiming, State.zeroTiming, State.oneTiming]

end Sys2Proof.Machine

/-! # Proofs of 41_bitstring_transmitter.md sections 3 and 4 and 43_driver_facade.md section 5: a send, whole -/

namespace Sys2Proof.Machine

/-! ### The end of a send -/

/-- The state in which the sequencer, started in the idle state `s`, ends: REPEAT frames further, and `s` itself with REPEAT 0. -/
def sendEnd (A C : List Char8) (s : State) : State :=
  if s.repeatCount = 0#16 then s
  else { seqAt (txframeTrace s.protocol s.pin s.repeatCount.toNat A C) .idle 0#4 (endIdx A C s.idx) 0#24 s with
    rep := 0#16 }

section

variable (A C : List Char8) (s : State)

theorem sendEnd_repeat_zero (hr : s.repeatCount = 0#16) : sendEnd A C s = s := if_pos hr

theorem sendEnd_repeat_pos (hr : s.repeatCount ≠ 0#16) : sendEnd A C s =
    { seqAt (txframeTrace s.protocol s.pin s.repeatCount.toNat A C) .idle 0#4 (endIdx A C s.idx) 0#24 s with
      rep := 0#16 } := if_neg hr

theorem sendEnd_err : (sendEnd A C s).err = s.err := by
  unfold sendEnd
  split_ifs <;> rfl

theorem sendEnd_hostOps : (sendEnd A C s).hostOps = s.hostOps := by
  unfold sendEnd
  split_ifs <;> rfl

theorem sendEnd_repeatCount : (sendEnd A C s).repeatCount = s.repeatCount := by
  unfold sendEnd
  split_ifs <;> rfl

theorem sendEnd_phase (hp : s.phase = .idle) : (sendEnd A C s).phase = .idle := by
  unfold sendEnd
  split_ifs
  · exact hp
  · rfl

theorem sendEnd_trace :
    (sendEnd A C s).trace = s.trace ++ txframeTrace s.protocol s.pin s.repeatCount.toNat A C := by
  unfold sendEnd
  split_ifs with hr
  · rw [hr]
    exact (List.append_nil _).symm
  · rfl

end

/-! ### The run of a send -/

/-- Started with REPEAT at least 1, the sequencer is busy until exactly its last step (R158). -/
theorem seqRun_start (A C : List Char8) (hA : A.length ≤ 63) (hC : C.length ≤ 63) (s : State) (hpin : s.pinSet = true)
    (hr : s.repeatCount ≠ 0#16) :
    ∃ m v, s.repeatCount.toNat * (4 * (12 + A.length + C.length) + 2) = m + 1 ∧ seqRun A C m (seqStart s) = .next v ∧
      v.phase = .gapr ∧ seqStep A C v = .next (sendEnd A C s) := by
  obtain ⟨r, hcount⟩ := Nat.exists_eq_succ_of_ne_zero (BitVec.toNat_pos_of_ne_zero hr).ne'
  rw [seqStart_pin s hpin, if_neg hr, hcount]
  obtain ⟨v, hrun, hv, hlast⟩ := seqRun_repeats A C hA hC r
    { s with rep := s.repeatCount, phase := .sync, scnt := 12#4, sub := .hiSet } rfl rfl rfl hcount
  refine ⟨_, v, by rw [Nat.succ_mul]; omega, hrun, hv, hlast.trans ?_⟩
  rw [sendEnd_repeat_pos A C s hr, hcount]
  rfl

/-- Started in any state with a pin, the sequencer ends after `REPEAT (4 (12 + a + c) + 2)` steps (R158, R159). -/
theorem seqRun_seqStart (A C : List Char8) (hA : A.length ≤ 63) (hC : C.length ≤ 63) (s : State) (hpin : s.pinSet = true) :
    seqRun A C (s.repeatCount.toNat * (4 * (12 + A.length + C.length) + 2)) (seqStart s) = .next (sendEnd A C s) := by
  by_cases hr : s.repeatCount = 0#16
  · rw [seqStart_repeat_zero s hpin hr, sendEnd_repeat_zero A C s hr, hr, BitVec.toNat_ofNat, Nat.zero_mod, Nat.zero_mul]
    rfl
  · obtain ⟨m, v, hcount, hrun, -, hlast⟩ := seqRun_start A C hA hC s hpin hr
    rw [hcount, seqRun_add A C m 1 _ v hrun, seqRun_one, hlast]

theorem seqRun_seqStart_busy (A C : List Char8) (hA : A.length ≤ 63) (hC : C.length ≤ 63) (s : State)
    (hpin : s.pinSet = true) {k : Nat} (hk : k < s.repeatCount.toNat * (4 * (12 + A.length + C.length) + 2)) :
    ∃ t, seqRun A C k (seqStart s) = .next t ∧ t.phase ≠ .idle := by
  by_cases hr : s.repeatCount = 0#16
  · simp [hr] at hk
  · obtain ⟨m, v, hcount, hrun, hv, -⟩ := seqRun_start A C hA hC s hpin hr
    exact seqRun_busy_before hrun (by simp [hv]) (by omega)

/-! ### SEND on the machine's own steps -/

/-- The word of SEND, its upper 24 bits written as one number. -/
theorem formatH_send (c : Char8) : formatH 0x4#4 (0#8 ++ c) = 0x400000#24 ++ c := by
  have hassoc : (0x4#4 ++ 0#12) ++ (0#8 ++ c) = (((0x4#4 ++ 0#12) ++ 0#8) ++ c).cast rfl := BitVec.append_assoc'
  exact hassoc

theorem formatH_setrep (n : Half) : formatH 0x2#4 n = 0x2000#16 ++ n := rfl

theorem step_send {s : State} {c : Char8} {rest : List Word} (hp : s.phase = .idle)
    (hops : s.hostOps = (0x400000#24 ++ c) :: rest) : step s = exec (.send c) { s with hostOps := rest } := by
  rw [← formatH_send] at hops
  rw [step_idle s hp, hostStep_ok s _ rest _ hops (decodeWord_send c)]

theorem step_setrep {s : State} {n : Half} {rest : List Word} (hp : s.phase = .idle)
    (hops : s.hostOps = (0x2000#16 ++ n) :: rest) :
    step s = .next { s with hostOps := rest, repeatCount := n } := by
  rw [← formatH_setrep] at hops
  rw [step_idle s hp, hostStep_ok s _ rest _ hops (decodeWord_setrep n)]
  rfl

/-- An accepted SEND: one step to the start, and the frames after it (log 8). -/
theorem stepRun_send {s : State} {c : Char8} {code : Vector Char8 26} {rest : List Word} (hp : s.phase = .idle)
    (hops : s.hostOps = (0x400000#24 ++ c) :: rest) (hc : lkcmd c = some code) (ha : s.addrSet = true)
    (hpin : s.pinSet = true) :
    stepRun (1 + 322 * s.repeatCount.toNat) s =
        .next (sendEnd s.addr.toList code.toList { s with hostOps := rest, code := code }) ∧
      ∀ k, k < 322 * s.repeatCount.toNat → ∃ t : State, stepRun (1 + k) s = .next t ∧ t.phase ≠ .idle := by
  generalize hu : ({ s with hostOps := rest, code := code } : State) = u
  have hstart : stepRun 1 s = .next (seqStart u) := by
    rw [stepRun_one, step_send hp hops, exec_send_accepted c code { s with hostOps := rest } hc ha hpin, ← hu]
  have hupin : u.pinSet = true := by rw [← hu]; exact hpin
  have hcount : s.repeatCount.toNat * (4 * (12 + s.addr.toList.length + code.toList.length) + 2) =
      322 * s.repeatCount.toNat := by
    rw [Vector.length_toList, Vector.length_toList, Nat.mul_comm]
  have hrepeat : u.repeatCount = s.repeatCount := by rw [← hu]
  have hA : s.addr.toList.length ≤ 63 := by rw [Vector.length_toList]; omega
  have hC : code.toList.length ≤ 63 := by rw [Vector.length_toList]; omega
  have hrun := seqRun_seqStart s.addr.toList code.toList hA hC u hupin
  have hbusy (k : Nat) (hk : k < 322 * s.repeatCount.toNat) :=
    seqRun_seqStart_busy s.addr.toList code.toList hA hC u hupin (k := k) (by rwa [hrepeat, hcount])
  rw [hrepeat, hcount] at hrun
  have haddr : (seqStart u).addr = s.addr := by
    rw [seqStart_pin u hupin, ← hu]
    split_ifs <;> rfl
  have hcode : (seqStart u).code = code := by
    rw [seqStart_pin u hupin, ← hu]
    split_ifs <;> rfl
  rw [← haddr, ← hcode] at hrun hbusy
  refine ⟨?_, fun k hk => ?_⟩
  · rw [stepRun_add 1 _ s _ hstart, stepRun_of_seqRun _ _ _ hrun hbusy, haddr, hcode]
  · obtain ⟨t, ht, htb⟩ := hbusy k hk
    rw [stepRun_add 1 _ s _ hstart]
    exact ⟨t, stepRun_of_seqRun_busy ht htb, htb⟩

/-! ### Four steps of the machine -/

theorem txpulse_phase (t : PulseTiming) (s : State) : (txpulse t s).phase = s.phase := by rw [txpulse_eq]

theorem txpulse_sub (t : PulseTiming) (s : State) : (txpulse t s).sub = s.sub := by rw [txpulse_eq]

theorem txpulse_idx (t : PulseTiming) (s : State) : (txpulse t s).idx = s.idx := by rw [txpulse_eq]

theorem txpulse_scnt (t : PulseTiming) (s : State) : (txpulse t s).scnt = s.scnt := by rw [txpulse_eq]

/-- A symbol of either string is one pulse of the timing it is sent with. -/
theorem exec_decodeSymbol (ch : Char8) (s : State) :
    exec (decodeSymbol ch) s = .next (txpulse (s.protocol.timing ch) s) := by
  unfold decodeSymbol Protocol.timing
  split_ifs <;> rfl

/-- Four steps from the start of a pulse are the pulse and the advance, of the machine as of the sequencer. -/
theorem stepRun_pulse {s : State} {tm : PulseTiming} (hp : s.inPulse) (hs : s.sub = .hiSet)
    (ht : curTiming s.addr.toList s.code.toList s = some tm) :
    stepRun 4 s = .next (advance s.addr.toList s.code.toList (txpulse tm s)) := by
  refine stepRun_of_seqRun_busy (seqRun_pulse _ _ s tm hp hs ht) ?_
  obtain ⟨ph, n, i, sb, g, h, hph⟩ := advance_frame s.addr.toList s.code.toList (txpulse tm s)
  rw [h]
  exact hph (by obtain h | h | h := hp <;> simp [txpulse, h])

/-- The advance at an address symbol (R154): the catalog's strings are not empty, so the command follows. -/
theorem advance_addr_symbol (a : Vector Char8 42) (c : Vector Char8 26) (t : State) (hp : t.phase = .addr)
    (hs : t.sub = .hiSet) : advance a.toList c.toList t =
      if t.idx = 41#6 then { t with phase := .cmd, idx := 0#6 } else { t with idx := t.idx + 1#6 } := by
  have hC : c.toList ≠ [] := List.ne_nil_of_length_eq_add_one (n := 25) Vector.length_toList
  split_ifs with hi
  · have hlast : (t.idx + 1#6).toNat = a.toList.length := by rw [hi, Vector.length_toList]; rfl
    rw [advance_addr_last _ _ t hp hlast, enterCmd_cons _ hC, ← hs]
  · exact advance_addr_more _ _ t hp (by rw [Vector.length_toList]; bv_omega)

/-- The advance at a command symbol (R154). -/
theorem advance_cmd_symbol (a : Vector Char8 42) (c : Vector Char8 26) (t : State) (hp : t.phase = .cmd) :
    advance a.toList c.toList t =
      if t.idx = 25#6 then { t with phase := .gapr, idx := 26#6, gcnt := 26000#24 } else { t with idx := t.idx + 1#6 } := by
  split_ifs with hi
  · have hlast : (t.idx + 1#6).toNat = c.toList.length := by rw [hi, Vector.length_toList]; rfl
    rw [advance_cmd_last _ _ t hp hlast, hi]
    rfl
  · exact advance_cmd_more _ _ t hp (by rw [Vector.length_toList]; bv_omega)

/-! ### The obligations -/

/-- Settles O9: a symbol's pulse in four steps, and the advance by the position in its string. -/
theorem fourStepsRunTheSymbol : Obligations.FourStepsRunTheSymbol := by
  refine ⟨fun s ch hs hp hch => ⟨_, exec_decodeSymbol ch s, ?_⟩, fun s ch hs hp hch => ⟨_, exec_decodeSymbol ch s, ?_⟩⟩
  · rw [stepRun_pulse (.inr (.inl hp)) hs (curTiming_of_char (.inl ⟨hp, hch⟩)), ← txpulse_idx (s.protocol.timing ch) s]
    rw [← txpulse_phase (s.protocol.timing ch) s] at hp
    rw [← txpulse_sub (s.protocol.timing ch) s] at hs
    generalize txpulse (s.protocol.timing ch) s = u at hp hs ⊢
    rw [advance_addr_symbol s.addr s.code u hp hs]
  · rw [stepRun_pulse (.inr (.inr hp)) hs (curTiming_of_char (.inr ⟨hp, hch⟩)), ← txpulse_idx (s.protocol.timing ch) s]
    rw [← txpulse_phase (s.protocol.timing ch) s] at hp
    generalize txpulse (s.protocol.timing ch) s = u at hp ⊢
    rw [advance_cmd_symbol s.addr s.code u hp]

/-- Settles O10: a sync pulse in four steps, and each gap in one. -/
theorem fourStepsRunOneSyncPulse : Obligations.FourStepsRunOneSyncPulse := by
  refine ⟨fun s hs hp => ?_, fun s hp => ?_, fun s hp => ?_⟩
  · rw [stepRun_pulse (.inl hp) hs (curTiming_sync _ _ s hp), State.syncTiming, ← txpulse_scnt ⟨s.syncH, s.syncL⟩ s]
    rw [← txpulse_phase ⟨s.syncH, s.syncL⟩ s] at hp
    generalize txpulse ⟨s.syncH, s.syncL⟩ s = u at hp ⊢
    split_ifs with hn
    · rw [advance_sync_last _ _ u hp hn]
    · rw [advance_sync_more _ _ u hp hn]
  · have hA : s.addr.toList ≠ [] := List.ne_nil_of_length_eq_add_one (n := 41) Vector.length_toList
    rw [step_busy s (by simp [hp]), seqStep_gaps _ _ s hp, enterAddr_cons _ _ hA]
    rfl
  · rw [step_busy s (by simp [hp]), seqStep_gapr _ _ s hp]
    split_ifs with hr
    · exact congrArg Host.Outcome.next (endRepeat_last (gapHold s) hr)
    · exact congrArg Host.Outcome.next (endRepeat_more (gapHold s) hr)

theorem endIdx_eq_ofNat (A C : List Char8) (i : BitVec 6) : endIdx A C i =
    BitVec.ofNat 6 (if C = [] then (if A = [] then i.toNat else A.length) else C.length) := by
  unfold endIdx
  split_ifs
  · rw [BitVec.ofNat_toNat, BitVec.setWidth_eq]
  · rfl
  · rfl

theorem endIdx_catalog (a : Vector Char8 42) (c : Vector Char8 26) (i : BitVec 6) :
    endIdx a.toList c.toList i = 26#6 := by
  have hC : c.toList ≠ [] := List.ne_nil_of_length_eq_add_one (n := 25) Vector.length_toList
  rw [endIdx, if_neg hC, Vector.length_toList]

/-- Settles O46: the sequencer's run, against TXFRAME by the trace both emit. -/
theorem sequencerRefinesTxframe : Obligations.SequencerRefinesTxframe := by
  intro A C s hA hC hp hpin
  have hrun := seqRun_seqStart A C hA hC s hpin
  refine ⟨⟨_, hrun, ?_, fun _ => ?_, fun e => ?_⟩, fun k hk => seqRun_seqStart_busy A C hA hC s hpin hk⟩
  · by_cases hr : s.repeatCount = 0#16
    · rw [if_pos hr, sendEnd_repeat_zero A C s hr]
    · rw [if_neg hr, sendEnd_repeat_pos A C s hr, txframe_repeat_pos A C s hpin hr, ← endIdx_eq_ofNat]
      simp [seqAt, afterPulses, hp]
  · rw [sendEnd_trace, txframe_trace A C s hpin]
  · rw [seqStart_err s hpin e]
    exact (seqRun_commute _ (unread_err e) A C _ (seqStart s)).trans (by rw [hrun]; rfl)

/-- Settles O47: the three checks, and the run of an accepted SEND. -/
theorem sendRunsItsFramesToIdle : Obligations.SendRunsItsFramesToIdle := by
  intro s c rest hp hops
  refine ⟨fun hc => ?_, fun code hc => ⟨fun ha => ?_, fun ha hpin => ?_, fun ha hpin => ?_, ?_, fun hproto => ?_⟩⟩
  · rw [step_send hp hops, exec_send_of_lkcmd_none { s with hostOps := rest } hc]
    rfl
  · rw [step_send hp hops, exec_send_no_address { s with hostOps := rest } hc ha]
    rfl
  · rw [step_send hp hops, exec_send_no_pin { s with hostOps := rest } hc ha hpin]
    rfl
  · obtain ⟨hrun, hbusy⟩ := stepRun_send hp hops hc ha hpin
    refine ⟨⟨_, hrun, ?_, fun _ => sendEnd_trace _ _ _, ?_⟩, hbusy⟩
    · by_cases hr : s.repeatCount = 0#16
      · rw [if_pos hr, sendEnd_repeat_zero _ _ { s with hostOps := rest, code := code } hr]
      · rw [if_neg hr, sendEnd_repeat_pos _ _ { s with hostOps := rest, code := code } hr, endIdx_catalog]
        simp [seqAt, afterPulses, hp]
    · have hidle := sendEnd_phase s.addr.toList code.toList { s with hostOps := rest, code := code } hp
      rw [Safety.finalState, Safety.runEnded, Safety.goneWrong, sendEnd_err, sendEnd_hostOps, hidle]
      simp [Safety.goneWrong]
  · rw [txframeTrace_length, Vector.length_toList, Vector.length_toList, Nat.mul_comm]
  · rw [show s.protocol = defaultUnits 400#16 from hproto, duration_defaultUnits, Nat.mul_comm]
    rfl

/-- Settles O12: only SETREP writes REPEAT, and a send repeats as often as it says. -/
theorem setrepIsUsedUntilChanged : Obligations.SetrepIsUsedUntilChanged := by
  refine ⟨fun n s => ⟨?_, exec_setrep n s⟩, fun i s t hi h => exec_repeatCount hi h, fun s t hp h => ?_,
    fun A C s hA hC hp hpin => ?_, fun s n c code rest hp hops hc ha hpin => ?_⟩
  · rw [← formatH_setrep]
    exact decodeWord_setrep n
  · obtain ⟨_, _, _, _, _, _, _, _, rfl⟩ := step_busy_frame hp h
    rfl
  · exact ⟨_, seqRun_seqStart A C hA hC s hpin, sendEnd_phase A C s hp, sendEnd_err A C s, fun _ => sendEnd_trace A C s⟩
  · obtain ⟨hrun, -⟩ := stepRun_send (s := { s with hostOps := (0x400000#24 ++ c) :: rest, repeatCount := n })
      hp rfl hc ha hpin
    have hall : stepRun (2 + 322 * n.toNat) s = .next
        (sendEnd s.addr.toList code.toList { s with hostOps := rest, repeatCount := n, code := code }) := by
      rw [show 2 + 322 * n.toNat = 1 + 322 * n.toNat + 1 by omega, stepRun_succ _ s _ (step_setrep hp hops)]
      exact hrun
    exact ⟨_, hall, sendEnd_phase _ _ _ hp, sendEnd_hostOps _ _ _, sendEnd_repeatCount _ _ _, sendEnd_err _ _ _,
      fun _ => sendEnd_trace _ _ _⟩

end Sys2Proof.Machine

/-! # Proofs of 10_state.md section 6 and 41_bitstring_transmitter.md section 3: positions, and the invariant -/

namespace Sys2Proof.Machine

/-! ### PHASE after each part of the sequencer -/

theorem enterCmd_phase (C : List Char8) (s : State) : (enterCmd C s).phase = if C ≠ [] then .cmd else .gapr := by
  split_ifs with hC
  · rw [enterCmd_cons C hC]
  · rw [not_not.mp hC, enterCmd_nil]

theorem enterAddr_phase (A C : List Char8) (s : State) :
    (enterAddr A C s).phase = if A ≠ [] then .addr else if C ≠ [] then .cmd else .gapr := by
  split_ifs with hA hC
  · rw [enterAddr_cons A C hA]
  · rw [not_not.mp hA, enterAddr_nil, enterCmd_phase, if_pos hC]
  · rw [not_not.mp hA, enterAddr_nil, enterCmd_phase, if_neg hC]

theorem advance_sync_phase (A C : List Char8) (s : State) (hp : s.phase = .sync) :
    (advance A C s).phase = if s.scnt = 1#4 then .gaps else .sync := by
  split_ifs with h
  · rw [advance_sync_last A C s hp h]
  · rw [advance_sync_more A C s hp h, hp]

theorem advance_addr_phase (A C : List Char8) (s : State) (hp : s.phase = .addr) : (advance A C s).phase =
    if (s.idx + 1#6).toNat = A.length then (if C ≠ [] then .cmd else .gapr) else .addr := by
  by_cases h : (s.idx + 1#6).toNat = A.length
  · rw [advance_addr_last A C s hp h, enterCmd_phase, if_pos h]
  · rw [advance_addr_more A C s hp h, if_neg h, hp]

theorem advance_cmd_phase (A C : List Char8) (s : State) (hp : s.phase = .cmd) :
    (advance A C s).phase = if (s.idx + 1#6).toNat = C.length then .gapr else .cmd := by
  split_ifs with h
  · rw [advance_cmd_last A C s hp h]
  · rw [advance_cmd_more A C s hp h, hp]

theorem endRepeat_phase (s : State) : (endRepeat s).phase = if s.rep = 1#16 then .idle else .sync := by
  split_ifs with h
  · rw [endRepeat_last s h]
  · rw [endRepeat_more s h]

/-- Inside a pulse PHASE stays. -/
theorem pulseStep_phase {A C : List Char8} {s t : State} (hs : s.sub ≠ .loHold) (h : pulseStep A C s = .next t) :
    t.phase = s.phase := by
  cases hsub : s.sub with
  | hiSet =>
    cases ht : curTiming A C s with
    | none => rw [pulseStep_hiSet_none A C s hsub ht] at h; cases h
    | some tm =>
      rw [pulseStep_hiSet A C s tm hsub ht] at h
      cases h
      rfl
  | hiHold =>
    rw [pulseStep_hiHold A C s hsub] at h
    cases h
    rfl
  | loSet =>
    rw [pulseStep_loSet A C s hsub] at h
    cases h
    rfl
  | loHold => exact absurd hsub hs

/-- The end of a pulse is its advance, on a state in which PHASE, SCNT and IDX are as before. -/
theorem pulseStep_loHold_eq {A C : List Char8} {s t : State} (hs : s.sub = .loHold) (h : pulseStep A C s = .next t) :
    ∃ u, t = advance A C u ∧ u.phase = s.phase ∧ u.scnt = s.scnt ∧ u.idx = s.idx := by
  rw [pulseStep_loHold A C s hs] at h
  exact ⟨_, (Host.Outcome.next.inj h).symm, rfl, rfl, rfl⟩

/-- The table of PHASE for the sequencer (41_bitstring_transmitter.md section 3). -/
theorem seqStep_phase {A C : List Char8} {s t : State} (h : seqStep A C s = .next t) :
    (s.phase = .sync → t.phase = if s.sub = .loHold ∧ s.scnt = 1#4 then .gaps else .sync) ∧
    (s.phase = .gaps → t.phase = if A ≠ [] then .addr else if C ≠ [] then .cmd else .gapr) ∧
    (s.phase = .addr → t.phase =
      if s.sub = .loHold ∧ (s.idx + 1#6).toNat = A.length then (if C ≠ [] then .cmd else .gapr) else .addr) ∧
    (s.phase = .cmd → t.phase = if s.sub = .loHold ∧ (s.idx + 1#6).toNat = C.length then .gapr else .cmd) ∧
    (s.phase = .gapr → t.phase = if s.rep = 1#16 then .idle else .sync) := by
  refine ⟨fun hp => ?_, fun hp => ?_, fun hp => ?_, fun hp => ?_, fun hp => ?_⟩
  · rw [seqStep_pulse A C s (.inl hp)] at h
    by_cases hs : s.sub = .loHold
    · obtain ⟨u, rfl, hu, hscnt, -⟩ := pulseStep_loHold_eq hs h
      rw [advance_sync_phase A C u (hu.trans hp), hscnt]
      simp [hs]
    · rw [pulseStep_phase hs h, if_neg (fun hc => hs hc.1), hp]
  · rw [seqStep_gaps A C s hp] at h
    cases h
    exact enterAddr_phase A C (gapHold s)
  · rw [seqStep_pulse A C s (.inr (.inl hp))] at h
    by_cases hs : s.sub = .loHold
    · obtain ⟨u, rfl, hu, -, hidx⟩ := pulseStep_loHold_eq hs h
      rw [advance_addr_phase A C u (hu.trans hp), hidx]
      simp [hs]
    · rw [pulseStep_phase hs h, if_neg (fun hc => hs hc.1), hp]
  · rw [seqStep_pulse A C s (.inr (.inr hp))] at h
    by_cases hs : s.sub = .loHold
    · obtain ⟨u, rfl, hu, -, hidx⟩ := pulseStep_loHold_eq hs h
      rw [advance_cmd_phase A C u (hu.trans hp), hidx]
      simp [hs]
    · rw [pulseStep_phase hs h, if_neg (fun hc => hs hc.1), hp]
  · rw [seqStep_gapr A C s hp] at h
    cases h
    exact endRepeat_phase (gapHold s)

/-! ### The host's step and PHASE -/

/-- The machine leaves IDLE only by an accepted SEND with REPEAT at least 1. -/
theorem hostStep_phase {s t : State} (hp : s.phase = .idle) (h : hostStep s = .next t) :
    t.phase = .idle ∨ ∃ w rest c code, s.hostOps = w :: rest ∧ decodeWord w = .ok (.send c) ∧ lkcmd c = some code ∧
      s.addrSet = true ∧ s.pinSet = true ∧ s.repeatCount ≠ 0#16 ∧ t.phase = .sync ∧ t.rep = s.repeatCount ∧
      t.scnt = 12#4 ∧ t.sub = .hiSet := by
  obtain ⟨-, rfl⟩ | ⟨w, rest, r, hops, -, rfl⟩ | ⟨w, rest, i, hops, hd, hx⟩ := hostStep_cases h
  · exact .inl hp
  · exact .inl hp
  · by_cases hphase : t.phase = s.phase
    · exact .inl (hphase.trans hp)
    · obtain ⟨-, -, -, -, -, hsend, -⟩ := registersAreWrittenByTheirWriters i _ t hx
      obtain ⟨c, rfl⟩ := hsend (.inr (.inl hphase))
      obtain ⟨cause, rfl⟩ | ⟨code, hc, ha, hpin, ⟨hr, rfl⟩ | ⟨hr, rfl⟩⟩ := exec_send_cases hx
      · exact .inl hp
      · exact .inl hp
      · exact .inr ⟨w, rest, c, code, hops, hd, hc, ha, hpin, hr, rfl, rfl, rfl, rfl⟩

/-- Settles O44: the table for the sequencer, its rows on strings of 42 and 26 symbols, and the host's step. -/
theorem sequencerPhaseTransitions : Obligations.SequencerPhaseTransitions := by
  refine ⟨fun A C s t => seqStep_phase, fun s t h => ?_⟩
  have hA : s.addr.toList ≠ [] := List.ne_nil_of_length_eq_add_one (n := 41) Vector.length_toList
  have hC : s.code.toList ≠ [] := List.ne_nil_of_length_eq_add_one (n := 25) Vector.length_toList
  have hrow (hb : s.phase ≠ .idle) := seqStep_phase ((step_busy s hb).symm.trans h)
  refine ⟨fun hp => ?_, fun hp => ?_, fun hp => ?_, fun hp => ?_, fun hp => ?_, fun hp => ?_⟩
  · exact (hrow (by simp [hp])).1 hp
  · obtain ⟨-, hgaps, -⟩ := hrow (by simp [hp])
    rw [hgaps hp, if_pos hA]
  · obtain ⟨-, -, haddr, -⟩ := hrow (by simp [hp])
    have hlast : (s.idx + 1#6).toNat = s.addr.toList.length ↔ s.idx = 41#6 := by rw [Vector.length_toList]; bv_omega
    rw [haddr hp, if_pos hC]
    simp only [hlast]
  · obtain ⟨-, -, -, hcmd, -⟩ := hrow (by simp [hp])
    have hlast : (s.idx + 1#6).toNat = s.code.toList.length ↔ s.idx = 25#6 := by rw [Vector.length_toList]; bv_omega
    rw [hcmd hp]
    simp only [hlast]
  · obtain ⟨-, -, -, -, hgapr⟩ := hrow (by simp [hp])
    exact hgapr hp
  · rw [step_idle s hp] at h
    have hiff : (∃ w rest c code, s.hostOps = w :: rest ∧ decodeWord w = .ok (.send c) ∧ lkcmd c = some code ∧
        s.addrSet = true ∧ s.pinSet = true ∧ 1 ≤ s.repeatCount.toNat) → t.phase = .sync := by
      rintro ⟨w, rest, c, code, hops, hd, hc, ha, hpin, hr⟩
      rw [hostStep_ok s w rest _ hops hd, exec_send_start { s with hostOps := rest } hc ha hpin (by bv_omega)] at h
      cases h
      rfl
    obtain hidle | ⟨w, rest, c, code, hops, hd, hc, ha, hpin, hr, hsync, hpos⟩ := hostStep_phase hp h
    · exact ⟨.inl hidle, ⟨fun hs => by simp [hidle] at hs, hiff⟩, fun hs => by simp [hidle] at hs⟩
    · have hr' : 1 ≤ s.repeatCount.toNat := BitVec.toNat_pos_of_ne_zero hr
      exact ⟨.inr hsync, ⟨fun _ => ⟨w, rest, c, code, hops, hd, hc, ha, hpin, hr'⟩, hiff⟩, fun _ => hpos⟩

end Sys2Proof.Machine

/-! # Proofs of 10_state.md section 6: the invariant of the machine, and the steps left in a send -/

namespace Sys2Proof.Machine

/-! ### The steps of a send on the machine's strings, all of them -/

/-- What one busy step of the machine does, by the position it is in (R153 to R156). -/
inductive BusyStep (s : State) : State → Prop where
  | hiSet (tm : PulseTiming) : s.inPulse → s.sub = .hiSet → curTiming s.addr.toList s.code.toList s = some tm →
      BusyStep s { pulseHiSet tm s with sub := .hiHold }
  | hiHold : s.inPulse → s.sub = .hiHold → BusyStep s { pulseHiHold s with sub := .loSet }
  | loSet : s.inPulse → s.sub = .loSet → BusyStep s { pulseLoSet s with sub := .loHold }
  | syncLast : s.phase = .sync → s.sub = .loHold → s.scnt = 1#4 →
      BusyStep s { pulseLoHold s with sub := .hiSet, scnt := 0#4, phase := .gaps, gcnt := 5000#24 }
  | syncMore : s.phase = .sync → s.sub = .loHold → s.scnt ≠ 1#4 →
      BusyStep s { pulseLoHold s with sub := .hiSet, scnt := s.scnt - 1#4 }
  | addrLast : s.phase = .addr → s.sub = .loHold → s.idx = 41#6 →
      BusyStep s { pulseLoHold s with sub := .hiSet, phase := .cmd, idx := 0#6 }
  | addrMore : s.phase = .addr → s.sub = .loHold → s.idx ≠ 41#6 →
      BusyStep s { pulseLoHold s with sub := .hiSet, idx := s.idx + 1#6 }
  | cmdLast : s.phase = .cmd → s.sub = .loHold → s.idx = 25#6 →
      BusyStep s { pulseLoHold s with sub := .hiSet, phase := .gapr, idx := 26#6, gcnt := 26000#24 }
  | cmdMore : s.phase = .cmd → s.sub = .loHold → s.idx ≠ 25#6 →
      BusyStep s { pulseLoHold s with sub := .hiSet, idx := s.idx + 1#6 }
  | gaps : s.phase = .gaps → BusyStep s { gapHold s with phase := .addr, idx := 0#6, sub := .hiSet }
  | repeatLast : s.phase = .gapr → s.rep = 1#16 → BusyStep s { gapHold s with rep := 0#16, phase := .idle }
  | repeatMore : s.phase = .gapr → s.rep ≠ 1#16 →
      BusyStep s { gapHold s with rep := s.rep - 1#16, phase := .sync, scnt := 12#4, sub := .hiSet }

/-- The end of a pulse, by its section. -/
theorem busyStep_loHold {s : State} (hi : s.inPulse) (hs : s.sub = .loHold) :
    BusyStep s (advance s.addr.toList s.code.toList { pulseLoHold s with sub := .hiSet }) := by
  obtain hp | hp | hp := hi
  · by_cases hn : s.scnt = 1#4
    · rw [advance_sync_last _ _ { pulseLoHold s with sub := .hiSet } hp hn]
      exact .syncLast hp hs hn
    · rw [advance_sync_more _ _ { pulseLoHold s with sub := .hiSet } hp hn]
      exact .syncMore hp hs hn
  · rw [advance_addr_symbol s.addr s.code { pulseLoHold s with sub := .hiSet } hp rfl]
    split_ifs with hidx
    · exact .addrLast hp hs hidx
    · exact .addrMore hp hs hidx
  · rw [advance_cmd_symbol s.addr s.code { pulseLoHold s with sub := .hiSet } hp]
    split_ifs with hidx
    · exact .cmdLast hp hs hidx
    · exact .cmdMore hp hs hidx

theorem busyStep_of_step {s t : State} (hb : s.phase ≠ .idle) (h : step s = .next t) : BusyStep s t := by
  rw [step_busy s hb] at h
  obtain hi | hi | hi | hi := phase_cases s
  · exact absurd hi hb
  · rw [seqStep_pulse _ _ s hi] at h
    cases hs : s.sub with
    | hiSet =>
      cases ht : curTiming s.addr.toList s.code.toList s with
      | none => rw [pulseStep_hiSet_none _ _ s hs ht] at h; cases h
      | some tm =>
        rw [pulseStep_hiSet _ _ s tm hs ht] at h
        cases h
        exact .hiSet tm hi hs ht
    | hiHold =>
      rw [pulseStep_hiHold _ _ s hs] at h
      cases h
      exact .hiHold hi hs
    | loSet =>
      rw [pulseStep_loSet _ _ s hs] at h
      cases h
      exact .loSet hi hs
    | loHold =>
      rw [pulseStep_loHold _ _ s hs] at h
      cases h
      exact busyStep_loHold hi hs
  · have hA : s.addr.toList ≠ [] := List.ne_nil_of_length_eq_add_one (n := 41) Vector.length_toList
    rw [seqStep_gaps _ _ s hi, enterAddr_cons _ _ hA] at h
    cases h
    exact .gaps hi
  · rw [seqStep_gapr _ _ s hi] at h
    cases h
    by_cases hr : s.rep = 1#16
    · rw [endRepeat_last (gapHold s) hr]
      exact .repeatLast hi hr
    · rw [endRepeat_more (gapHold s) hr]
      exact .repeatMore hi hr

/-! ### The invariant in two parts

The configuration of a send is what no busy step writes; the position is what the sequencer's fields, LEVEL and the counters say. -/

/-- The parts of the invariant that speak of the configuration, the trace and the strings. -/
structure Configured (s : State) : Prop where
  selected : s.phase ≠ .idle → s.pinSet = true ∧ s.addrSet = true
  levelTraced : s.level = levelOfTrace s.trace
  units : s.syncTiming = ⟨1#8, 2#8⟩ ∧ s.zeroTiming = ⟨2#8, 1#8⟩ ∧ s.oneTiming = ⟨1#8, 2#8⟩
  addrFromCatalog : s.addrSet = true → ∃ i, s.addr = addrRom i
  codeFromCatalog : s.phase ≠ .idle → ∃ k, s.code = cmdCode k

/-- REP is in range, and IDX and SCNT are in their section. -/
structure InRange (s : State) : Prop where
  repeatsLeft : s.phase ≠ .idle → 1 ≤ s.rep.toNat ∧ s.rep.toNat ≤ s.repeatCount.toNat
  syncLeft : s.phase = .sync → 1 ≤ s.scnt.toNat ∧ s.scnt.toNat ≤ 12
  addrIndex : s.phase = .addr → s.idx.toNat < 42
  cmdIndex : s.phase = .cmd → s.idx.toNat < 26

theorem configured_of_inv {s : State} (h : Safety.Inv s) : Configured s :=
  ⟨h.selected, h.levelTraced, h.units, h.addrFromCatalog, h.codeFromCatalog⟩

theorem inRange_of_inv {s : State} (h : Safety.Inv s) : InRange s := ⟨h.repeatsLeft, h.syncLeft, h.addrIndex, h.cmdIndex⟩

/-- LEVEL follows the trace event by event (R36). -/
theorem levelOfTrace_concat (tr : List Event) (e : Event) : levelOfTrace (tr ++ [e]) = levelAfter (levelOfTrace tr) e := by
  simp [levelOfTrace]

/-- No busy step writes the configuration. -/
theorem configured_busy {s t : State} (hc : Configured s) (hb : s.phase ≠ .idle) (h : step s = .next t) :
    Configured t := by
  obtain ⟨_, _, _, _, _, _, _, _, rfl⟩ := step_busy_frame hb h
  refine ⟨fun _ => hc.selected hb, ?_, hc.units, hc.addrFromCatalog, fun _ => hc.codeFromCatalog hb⟩
  show levelAfter s.level s.nextEvent = levelOfTrace (s.trace ++ [s.nextEvent])
  rw [levelOfTrace_concat, hc.levelTraced]

theorem betweenPulses_inPulse {s : State} (hi : s.inPulse) : Safety.betweenPulses s ↔ s.sub = .hiSet := by
  obtain hp | hp | hp := hi <;> simp [Safety.betweenPulses, hp]

/-- The counters inside a pulse, whichever section it is of. -/
theorem countersLoaded_inPulse {s : State} (hi : s.inPulse) : Safety.countersLoaded s ↔
    s.gcnt = 0#24 ∧ ∃ tm, curTiming s.addr.toList s.code.toList s = some tm ∧ Safety.countersInPulse tm s := by
  obtain hp | hp | hp := hi <;> simp [Safety.countersLoaded, hp, curTiming_sync]

/-- A pulse in progress has a timing. -/
theorem curTiming_of_inRange {s : State} (h : InRange s) (hi : s.inPulse) :
    ∃ tm, curTiming s.addr.toList s.code.toList s = some tm := by
  apply Option.isSome_iff_exists.mp
  obtain hp | hp | hp := hi
  · rw [curTiming_sync _ _ s hp]
    rfl
  · rw [curTiming_addr _ _ s hp, symbolTiming_isSome, Vector.length_toList]
    exact decide_eq_true (h.addrIndex hp)
  · rw [curTiming_cmd _ _ s hp, symbolTiming_isSome, Vector.length_toList]
    exact decide_eq_true (h.cmdIndex hp)

/-- The length of the gap a phase is. -/
def gapLength : Phase → Dur
  | .idle => 0#24
  | .sync => 0#24
  | .gaps => 5000#24
  | .addr => 0#24
  | .cmd => 0#24
  | .gapr => 26000#24

theorem inPulse_or_rest (s : State) : s.inPulse ∨ s.phase = .idle ∨ s.phase = .gaps ∨ s.phase = .gapr := by
  obtain hp | hi | hp | hp := phase_cases s
  · exact .inr (.inl hp)
  · exact .inl hi
  · exact .inr (.inr (.inl hp))
  · exact .inr (.inr (.inr hp))

theorem countersLoaded_rest {s : State} (hp : s.phase = .idle ∨ s.phase = .gaps ∨ s.phase = .gapr) :
    Safety.countersLoaded s ↔ s.hcnt = 0#24 ∧ s.lcnt = 0#24 ∧ s.gcnt = gapLength s.phase := by
  obtain hp | hp | hp := hp <;> simp [Safety.countersLoaded, hp, gapLength]

theorem betweenPulses_rest {s : State} (hp : s.phase = .idle ∨ s.phase = .gaps ∨ s.phase = .gapr) :
    Safety.betweenPulses s := by
  obtain hp | hp | hp := hp <;> simp [Safety.betweenPulses, hp]

/-- Outside a pulse the invariant asks that the pin is not HIGH, that the counters of a pulse are spent, and that GCNT holds the
length of the gap in progress. -/
theorem inv_of_rest {s : State} (hc : Configured s) (hr : InRange s) (hsub : s.inPulse → s.sub = .hiSet)
    (hlevel : s.level ≠ some .high) (hh : s.hcnt = 0#24) (hl : s.lcnt = 0#24) (hg : s.gcnt = gapLength s.phase) :
    Safety.Inv s := by
  have hposition : Safety.betweenPulses s ∧ Safety.countersLoaded s := by
    obtain hi | hp := inPulse_or_rest s
    · obtain ⟨tm, htm⟩ := curTiming_of_inRange hr hi
      have hg0 : s.gcnt = 0#24 := by obtain hp | hp | hp := hi <;> rw [hg, hp] <;> rfl
      have hcount : Safety.countersInPulse tm s := by
        simp only [Safety.countersInPulse, hsub hi]
        exact ⟨hh, hl⟩
      exact ⟨(betweenPulses_inPulse hi).mpr (hsub hi), (countersLoaded_inPulse hi).mpr ⟨hg0, tm, htm, hcount⟩⟩
    · exact ⟨betweenPulses_rest hp, (countersLoaded_rest hp).mpr ⟨hh, hl, hg⟩⟩
  exact ⟨hc.selected, hr.repeatsLeft, hr.syncLeft, hr.addrIndex, hr.cmdIndex, hc.levelTraced, fun _ => hlevel,
    fun hn => absurd hposition.1 hn, hc.units, hposition.2, hc.addrFromCatalog, hc.codeFromCatalog⟩

/-- Inside a pulse it asks for the level and the counters of the sub-step. -/
theorem inv_of_midPulse {s : State} (hc : Configured s) (hr : InRange s) (hi : s.inPulse) (hsub : s.sub ≠ .hiSet)
    (hlevel : Safety.levelInPulse s) (hg : s.gcnt = 0#24) {tm : PulseTiming}
    (htm : curTiming s.addr.toList s.code.toList s = some tm) (hcount : Safety.countersInPulse tm s) : Safety.Inv s :=
  ⟨hc.selected, hr.repeatsLeft, hr.syncLeft, hr.addrIndex, hr.cmdIndex, hc.levelTraced,
    fun hn => absurd ((betweenPulses_inPulse hi).mp hn) hsub, fun _ => hlevel, hc.units,
    (countersLoaded_inPulse hi).mpr ⟨hg, tm, htm, hcount⟩, hc.addrFromCatalog, hc.codeFromCatalog⟩

/-- What the invariant says of the gaps and of the idle machine. -/
theorem rest_of_inv {s : State} (h : Safety.Inv s) (hp : s.phase = .idle ∨ s.phase = .gaps ∨ s.phase = .gapr) :
    s.level ≠ some .high ∧ s.hcnt = 0#24 ∧ s.lcnt = 0#24 ∧ s.gcnt = gapLength s.phase :=
  ⟨h.levelRest (betweenPulses_rest hp), (countersLoaded_rest hp).mp h.counters⟩

/-- What the invariant says at the last sub-step of a pulse: the HIGH hold is spent, and the pin is LOW. -/
theorem loHold_of_inv {s : State} (h : Safety.Inv s) (hi : s.inPulse) (hs : s.sub = .loHold) :
    s.level ≠ some .high ∧ s.hcnt = 0#24 ∧ s.gcnt = 0#24 := by
  have hlevel : Safety.levelInPulse s := h.levelPulse fun hb => by simp [(betweenPulses_inPulse hi).mp hb] at hs
  obtain ⟨hg, tm, -, hcount⟩ := (countersLoaded_inPulse hi).mp h.counters
  simp only [Safety.levelInPulse, Safety.countersInPulse, hs] at hlevel hcount
  exact ⟨by simp [hlevel], hcount.1, hg⟩

/-! ### Every step keeps it -/

theorem inv_of_busyStep {s t : State} (h : Safety.Inv s) (hb : s.phase ≠ .idle) (ht : BusyStep s t) (hc : Configured t) :
    Safety.Inv t := by
  obtain ⟨hrep, hsync, haddr, hcmd⟩ := inRange_of_inv h
  cases ht with
  | hiSet tm hi hs htm =>
    obtain ⟨hg, -⟩ := (countersLoaded_inPulse hi).mp h.counters
    exact inv_of_midPulse hc ⟨hrep, hsync, haddr, hcmd⟩ hi (by simp) rfl hg htm ⟨pulseDur_toNat _ _, pulseDur_toNat _ _⟩
  | hiHold hi hs =>
    have hlevel : Safety.levelInPulse s := h.levelPulse fun hb => by simp [(betweenPulses_inPulse hi).mp hb] at hs
    obtain ⟨hg, tm, htm, hcount⟩ := (countersLoaded_inPulse hi).mp h.counters
    simp only [Safety.levelInPulse, Safety.countersInPulse, hs] at hlevel hcount
    exact inv_of_midPulse hc ⟨hrep, hsync, haddr, hcmd⟩ hi (by simp) hlevel hg htm ⟨rfl, hcount.2⟩
  | loSet hi hs =>
    obtain ⟨hg, tm, htm, hcount⟩ := (countersLoaded_inPulse hi).mp h.counters
    simp only [Safety.countersInPulse, hs] at hcount
    exact inv_of_midPulse hc ⟨hrep, hsync, haddr, hcmd⟩ hi (by simp) rfl hg htm hcount
  | syncLast hp hs hn =>
    obtain ⟨hlevel, hh, -⟩ := loHold_of_inv h (.inl hp) hs
    exact inv_of_rest hc ⟨fun _ => hrep hb, by simp, by simp, by simp⟩ (fun _ => rfl) hlevel hh rfl rfl
  | syncMore hp hs hn =>
    obtain ⟨hlevel, hh, hg⟩ := loHold_of_inv h (.inl hp) hs
    have hscnt : 1 ≤ (s.scnt - 1#4).toNat ∧ (s.scnt - 1#4).toNat ≤ 12 := by
      have := hsync hp
      bv_omega
    exact inv_of_rest hc ⟨fun _ => hrep hb, fun _ => hscnt, by simp [hp], by simp [hp]⟩ (fun _ => rfl) hlevel hh rfl
      (by simp [hp, hg, gapLength])
  | addrLast hp hs hidx =>
    obtain ⟨hlevel, hh, hg⟩ := loHold_of_inv h (.inr (.inl hp)) hs
    exact inv_of_rest hc ⟨fun _ => hrep hb, by simp, by simp, by simp⟩ (fun _ => rfl) hlevel hh rfl hg
  | addrMore hp hs hidx =>
    obtain ⟨hlevel, hh, hg⟩ := loHold_of_inv h (.inr (.inl hp)) hs
    have hnext : (s.idx + 1#6).toNat < 42 := by
      have := haddr hp
      bv_omega
    exact inv_of_rest hc ⟨fun _ => hrep hb, by simp [hp], fun _ => hnext, by simp [hp]⟩ (fun _ => rfl) hlevel hh rfl
      (by simp [hp, hg, gapLength])
  | cmdLast hp hs hidx =>
    obtain ⟨hlevel, hh, -⟩ := loHold_of_inv h (.inr (.inr hp)) hs
    exact inv_of_rest hc ⟨fun _ => hrep hb, by simp, by simp, by simp⟩ (fun _ => rfl) hlevel hh rfl rfl
  | cmdMore hp hs hidx =>
    obtain ⟨hlevel, hh, hg⟩ := loHold_of_inv h (.inr (.inr hp)) hs
    have hnext : (s.idx + 1#6).toNat < 26 := by
      have := hcmd hp
      bv_omega
    exact inv_of_rest hc ⟨fun _ => hrep hb, by simp [hp], by simp [hp], fun _ => hnext⟩ (fun _ => rfl) hlevel hh rfl
      (by simp [hp, hg, gapLength])
  | gaps hp =>
    obtain ⟨hlevel, hh, hl, -⟩ := rest_of_inv h (.inr (.inl hp))
    exact inv_of_rest hc ⟨fun _ => hrep hb, by simp, by simp, by simp⟩ (fun _ => rfl) hlevel hh hl rfl
  | repeatLast hp hr =>
    obtain ⟨hlevel, hh, hl, -⟩ := rest_of_inv h (.inr (.inr hp))
    exact inv_of_rest hc ⟨by simp, by simp, by simp, by simp⟩ (by simp [State.inPulse]) hlevel hh hl rfl
  | repeatMore hp hr =>
    obtain ⟨hlevel, hh, hl, -⟩ := rest_of_inv h (.inr (.inr hp))
    have hdown : 1 ≤ (s.rep - 1#16).toNat ∧ (s.rep - 1#16).toNat ≤ s.repeatCount.toNat := by
      have := hrep hb
      bv_omega
    exact inv_of_rest hc ⟨fun _ => hdown, by simp, by simp, by simp⟩ (fun _ => rfl) hlevel hh hl rfl

/-- The invariant of an idle machine. -/
theorem inv_of_idle {s : State} (hp : s.phase = .idle) (htr : s.level = levelOfTrace s.trace) (hlevel : s.level ≠ some .high)
    (hunits : s.syncTiming = ⟨1#8, 2#8⟩ ∧ s.zeroTiming = ⟨2#8, 1#8⟩ ∧ s.oneTiming = ⟨1#8, 2#8⟩)
    (hcount : s.hcnt = 0#24 ∧ s.lcnt = 0#24 ∧ s.gcnt = 0#24) (haddr : s.addrSet = true → ∃ i, s.addr = addrRom i) :
    Safety.Inv s :=
  inv_of_rest ⟨by simp [hp], htr, hunits, haddr, by simp [hp]⟩ ⟨by simp [hp], by simp [hp], by simp [hp], by simp [hp]⟩
    (by simp [State.inPulse, hp]) hlevel hcount.1 hcount.2.1 (by simp [hp, hcount.2.2, gapLength])

theorem exec_keeps_inv {i : Instr} {s t : State} (h : Safety.Inv s) (hp : s.phase = .idle) (hx : exec i s = .next t) :
    Safety.Inv t := by
  have hunits := h.units
  have htr := h.levelTraced
  have haddr := h.addrFromCatalog
  obtain ⟨hlevel, hcount⟩ := rest_of_inv h (.inl hp)
  rw [hp] at hcount
  have hlow (t : PulseTiming) : levelOfTrace (s.trace ++ pulseEvents s.protocol s.pin t) = some .low := by
    simp [levelOfTrace, pulseEvents, levelAfter]
  cases i with
  | cfgout pin =>
    cases hx
    exact inv_of_idle hp (levelOfTrace_concat s.trace (.pinMode pin)).symm (by simp) hunits hcount haddr
  | setrep n =>
    cases hx
    exact inv_of_idle hp htr hlevel hunits hcount haddr
  | setplen us =>
    cases hx
    exact inv_of_idle hp htr hlevel hunits hcount haddr
  | setproto =>
    cases hx
    exact inv_of_idle hp htr hlevel ⟨rfl, rfl, rfl⟩ hcount haddr
  | one =>
    rw [exec_one] at hx
    cases hx
    exact inv_of_idle hp (hlow _).symm (by simp) hunits ⟨rfl, rfl, hcount.2.2⟩ haddr
  | zero ch =>
    rw [exec_zero] at hx
    cases hx
    exact inv_of_idle hp (hlow _).symm (by simp) hunits ⟨rfl, rfl, hcount.2.2⟩ haddr
  | seladdr index =>
    obtain ⟨-, rfl⟩ | ⟨-, k, rfl⟩ := exec_seladdr_cases hx
    · exact inv_of_idle hp htr hlevel hunits hcount haddr
    · exact inv_of_idle hp htr hlevel hunits hcount fun _ => ⟨k, rfl⟩
  | send c =>
    obtain ⟨cause, rfl⟩ | ⟨code, hc, ha, hpin, ⟨-, rfl⟩ | ⟨hr, rfl⟩⟩ := exec_send_cases hx
    · exact inv_of_idle hp htr hlevel hunits hcount haddr
    · exact inv_of_idle hp htr hlevel hunits hcount haddr
    · have hrep : 1 ≤ s.repeatCount.toNat := BitVec.toNat_pos_of_ne_zero hr
      exact inv_of_rest ⟨fun _ => ⟨hpin, ha⟩, htr, hunits, haddr, fun _ => lkcmd_some c code hc⟩
        ⟨fun _ => ⟨hrep, le_rfl⟩, by simp, by simp, by simp⟩ (fun _ => rfl) hlevel hcount.1 hcount.2.1 hcount.2.2

/-- The host's words are no part of the invariant. -/
theorem inv_hostOps {s : State} (h : Safety.Inv s) (hp : s.phase = .idle) (rest : List Word) :
    Safety.Inv { s with hostOps := rest } := by
  obtain ⟨hlevel, hcount⟩ := rest_of_inv h (.inl hp)
  rw [hp] at hcount
  exact inv_of_idle hp h.levelTraced hlevel h.units hcount h.addrFromCatalog

theorem raise_keeps_inv {s : State} (h : Safety.Inv s) (c : Cause) : Safety.Inv (raise c s) :=
  ⟨h.selected, h.repeatsLeft, h.syncLeft, h.addrIndex, h.cmdIndex, h.levelTraced, h.levelRest, h.levelPulse, h.units,
    h.counters, h.addrFromCatalog, h.codeFromCatalog⟩

theorem step_keeps_inv {s t : State} (h : Safety.Inv s) (hstep : step s = .next t) : Safety.Inv t := by
  by_cases hp : s.phase = .idle
  · rw [step_idle s hp] at hstep
    obtain ⟨-, rfl⟩ | ⟨w, rest, r, -, -, rfl⟩ | ⟨w, rest, i, -, -, hx⟩ := hostStep_cases hstep
    · exact h
    · exact raise_keeps_inv (inv_hostOps h hp rest) .illegalOp
    · exact exec_keeps_inv (inv_hostOps h hp rest) hp hx
  · exact inv_of_busyStep h hp (busyStep_of_step hp hstep) (configured_busy (configured_of_inv h) hp hstep)

/-! ### The steps left in a send (R158) -/

/-- Inside a pulse only the sub-steps are counted down. -/
theorem stepsLeft_inPulse {s t : State} (hi : s.inPulse) (hphase : t.phase = s.phase) (hrep : t.rep = s.rep)
    (hscnt : t.scnt = s.scnt) (hidx : t.idx = s.idx) (hsub : Safety.pulseStepsLeft t + 1 = Safety.pulseStepsLeft s) :
    Safety.stepsLeft t + 1 = Safety.stepsLeft s := by
  obtain hp | hp | hp := hi <;> simp only [Safety.stepsLeft, Safety.repeatStepsLeft, hphase, hrep, hscnt, hidx, hp] <;> omega

/-- Every busy step is one step of the count: 322 a repeat, in the order of the sections. -/
theorem stepsLeft_busyStep {s t : State} (h : InRange s) (hb : s.phase ≠ .idle) (ht : BusyStep s t) :
    Safety.stepsLeft t + 1 = Safety.stepsLeft s := by
  obtain ⟨hrep, hsync, haddr, hcmd⟩ := h
  have hrep := hrep hb
  cases ht with
  | hiSet tm hi hs htm => exact stepsLeft_inPulse hi rfl rfl rfl rfl (by simp [Safety.pulseStepsLeft, hs])
  | hiHold hi hs => exact stepsLeft_inPulse hi rfl rfl rfl rfl (by simp [Safety.pulseStepsLeft, hs])
  | loSet hi hs => exact stepsLeft_inPulse hi rfl rfl rfl rfl (by simp [Safety.pulseStepsLeft, hs])
  | syncLast hp hs hn => simp [Safety.stepsLeft, Safety.repeatStepsLeft, Safety.pulseStepsLeft, hp, hs, hn]
  | syncMore hp hs hn =>
    have hdown : (s.scnt - 1#4).toNat = s.scnt.toNat - 1 ∧ 2 ≤ s.scnt.toNat := by
      have := hsync hp
      bv_omega
    simp [Safety.stepsLeft, Safety.repeatStepsLeft, Safety.pulseStepsLeft, hp, hs, -BitVec.toNat_sub, hdown.1]; omega
  | addrLast hp hs hidx => simp [Safety.stepsLeft, Safety.repeatStepsLeft, Safety.pulseStepsLeft, hp, hs, hidx]
  | addrMore hp hs hidx =>
    have hup : (s.idx + 1#6).toNat = s.idx.toNat + 1 ∧ s.idx.toNat < 41 := by
      have := haddr hp
      bv_omega
    simp [Safety.stepsLeft, Safety.repeatStepsLeft, Safety.pulseStepsLeft, hp, hs, -BitVec.toNat_add, hup.1]; omega
  | cmdLast hp hs hidx => simp [Safety.stepsLeft, Safety.repeatStepsLeft, Safety.pulseStepsLeft, hp, hs, hidx]
  | cmdMore hp hs hidx =>
    have hup : (s.idx + 1#6).toNat = s.idx.toNat + 1 ∧ s.idx.toNat < 25 := by
      have := hcmd hp
      bv_omega
    simp [Safety.stepsLeft, Safety.repeatStepsLeft, Safety.pulseStepsLeft, hp, hs, -BitVec.toNat_add, hup.1]; omega
  | gaps hp => simp [Safety.stepsLeft, Safety.repeatStepsLeft, Safety.pulseStepsLeft, hp]
  | repeatLast hp hr => simp [Safety.stepsLeft, Safety.repeatStepsLeft, hp, hr]
  | repeatMore hp hr =>
    have hdown : (s.rep - 1#16).toNat = s.rep.toNat - 1 ∧ 2 ≤ s.rep.toNat := by bv_omega
    simp [Safety.stepsLeft, Safety.repeatStepsLeft, Safety.pulseStepsLeft, hp, -BitVec.toNat_sub, hdown.1]; omega

theorem pulseStepsLeft_pos (s : State) : 0 < Safety.pulseStepsLeft s := by
  cases hs : s.sub <;> simp [Safety.pulseStepsLeft, hs]

theorem stepsLeft_eq_zero_iff (s : State) : s.phase = .idle ↔ Safety.stepsLeft s = 0 := by
  have := pulseStepsLeft_pos s
  cases hp : s.phase <;> simp [Safety.stepsLeft, Safety.repeatStepsLeft, hp]

/-- Under the invariant the machine answers. -/
theorem step_next_of_inv {s : State} (h : Safety.Inv s) : ∃ t, step s = .next t := by
  by_cases hp : s.phase = .idle
  · rw [step_idle s hp]
    cases hops : s.hostOps with
    | nil => exact ⟨s, hostStep_nil s hops⟩
    | cons w rest =>
      cases hd : decodeWord w with
      | ok i =>
        rw [hostStep_ok s w rest i hops hd]
        exact exec_next i _
      | illegal r => exact ⟨_, hostStep_illegal s w rest r hops hd⟩
  · rw [step_busy s hp]
    exact seqStep_next _ _ s (fun ha => by rw [Vector.length_toList]; exact h.addrIndex ha)
      (fun hc => by rw [Vector.length_toList]; exact h.cmdIndex hc)

/-! ### The obligations -/

/-- Settles O48: a host operation leaves an idle machine or a send begun, and a busy step each position as its next. -/
theorem stepKeepsTheInvariant : Obligations.StepKeepsTheInvariant := fun _ _ => step_keeps_inv

/-- Settles O49: reset is idle, its counters are 0 and its trace empty. -/
theorem resetMeetsTheInvariant : Obligations.ResetMeetsTheInvariant :=
  inv_of_idle rfl rfl (by decide) ⟨rfl, rfl, rfl⟩ ⟨rfl, rfl, rfl⟩ fun h => absurd h (by decide)

/-- Settles O50: the count of steps left falls by one at each busy step. -/
theorem sendCountsDownToItsEnd : Obligations.SendCountsDownToItsEnd := by
  intro s h
  obtain ⟨t, ht⟩ := step_next_of_inv h
  exact ⟨t, ht, fun hb => stepsLeft_busyStep (inRange_of_inv h) hb (busyStep_of_step hb ht), stepsLeft_eq_zero_iff t⟩

end Sys2Proof.Machine

/-! # Proofs of 41_bitstring_transmitter.md section 3, the tick level: holds counted in microseconds (R157) -/

namespace Sys2Proof.Machine

/-! ### The ticks of a hold -/

/-- `n` ticks into a hold that is longer, only its counter has changed (log 16). -/
theorem tickRun_inside (f : State → Host.Outcome State Fault Refusal) (s : State) (now : Nat) {d : Dur}
    (hd : holdCounter s = some d) {n : Nat} (hn : n < d.toNat) : tickRun f n ⟨s, 0#24, now⟩ =
      .next ⟨withHoldCounter (BitVec.ofNat 24 (d.toNat - n)) s, BitVec.ofNat 24 n, now + n⟩ := by
  induction n with
  | zero =>
    rw [Nat.sub_zero, BitVec.ofNat_toNat, BitVec.setWidth_eq, withHoldCounter_same d s hd]
    rfl
  | succ n ih =>
    have hleft : 1 < (BitVec.ofNat 24 (d.toNat - n)).toNat := by
      rw [BitVec.toNat_ofNat, Nat.mod_eq_of_lt (by omega)]
      omega
    have hdown : BitVec.ofNat 24 (d.toNat - n) - 1#24 = BitVec.ofNat 24 (d.toNat - (n + 1)) := by
      rw [show d.toNat - n = d.toNat - (n + 1) + 1 by omega, BitVec.ofNat_add, BitVec.add_sub_cancel]
    have hup : BitVec.ofNat 24 n + 1#24 = BitVec.ofNat 24 (n + 1) := (BitVec.ofNat_add n 1).symm
    have htick := tickStep_more f _ _ (BitVec.ofNat 24 n) (now + n) (holdCounter_with _ d s hd) hleft
    rw [withHoldCounter_twice, hdown, hup] at htick
    rw [tickRun_add f n 1 _ _ (ih (by omega)), tickRun_succ f 0 _ _ htick]
    rfl

/-- A whole hold is its step, taken at its end; a hold of length 0 takes no time. -/
theorem tickRun_hold (f : State → Host.Outcome State Fault Refusal) {s t : State} (now : Nat) {d : Dur}
    (hd : holdCounter s = some d) (h : f s = .next t) :
    tickRun f (holdSteps d) ⟨s, 0#24, now⟩ = .next ⟨t, 0#24, now + d.toNat⟩ := by
  by_cases h0 : d = 0#24
  · subst h0
    have htick := (tickStep_zero f s 0#24 now hd).trans (stepAt_next f s t now h)
    rw [holdSteps, if_pos rfl, tickRun_succ f 0 _ _ htick]
    rfl
  · obtain ⟨n, hn⟩ := Nat.exists_eq_succ_of_ne_zero (BitVec.toNat_pos_of_ne_zero h0).ne'
    have hinside := tickRun_inside f s now hd (n := n) (by omega)
    rw [show d.toNat - n = 1 by omega] at hinside
    have hspent : BitVec.ofNat 24 n + 1#24 = d := by
      rw [← BitVec.ofNat_add n 1, ← Nat.succ_eq_add_one, ← hn, BitVec.ofNat_toNat, BitVec.setWidth_eq]
    have htick := tickStep_last f _ (BitVec.ofNat 24 n) (now + n) (holdCounter_with 1#24 d s hd)
    rw [withHoldCounter_twice, hspent, withHoldCounter_same d s hd, stepAt_next f s t _ h] at htick
    rw [holdSteps, if_neg h0, hn, tickRun_add f n 1 _ _ hinside, tickRun_succ f 0 _ _ htick]
    rfl

/-- A step in no hold takes no time. -/
theorem tickRun_no_hold (f : State → Host.Outcome State Fault Refusal) {s t : State} (now : Nat)
    (hn : holdCounter s = none) (h : f s = .next t) : tickRun f 1 ⟨s, 0#24, now⟩ = .next ⟨t, 0#24, now⟩ := by
  rw [tickRun_succ f 0 _ _ ((tickStep_none f s 0#24 now hn).trans (stepAt_next f s t now h))]
  rfl

/-! ### The step of a hold -/

theorem busy_of_holdCounter {s : State} {d : Dur} (hd : holdCounter s = some d) : s.phase ≠ .idle := by
  intro hp
  simp [holdCounter, hp] at hd

theorem holdCounter_idle {s : State} (hp : s.phase = .idle) : holdCounter s = none := by
  simp [holdCounter, hp]

/-- The step of a hold leaves the hold's counter 0, but for GCNT where the next gap has loaded it (R155). -/
theorem seqStep_hold {s : State} {d : Dur} (A C : List Char8) (hd : holdCounter s = some d) :
    ∃ t, seqStep A C s = .next t ∧
      ((s.phase = .gaps ∧ (t.phase = .gapr ∨ t.gcnt = 0#24)) ∨ (s.phase = .gapr ∧ t.gcnt = 0#24) ∨
        (s.phase ≠ .gaps ∧ s.phase ≠ .gapr ∧ ((s.sub = .hiHold ∧ t.hcnt = 0#24) ∨ (s.sub = .loHold ∧ t.lcnt = 0#24)))) := by
  have hgap (hi : s.inPulse) : s.phase ≠ .gaps ∧ s.phase ≠ .gapr := by obtain hp | hp | hp := hi <;> simp [hp]
  obtain ⟨hi, hs, -, -⟩ | ⟨hi, hs, -, -⟩ | ⟨hp | hp, -, -⟩ := holdCounter_cases s d hd
  · obtain ⟨h1, h2⟩ := hgap hi
    exact ⟨_, (seqStep_pulse A C s hi).trans (pulseStep_hiHold A C s hs), .inr (.inr ⟨h1, h2, .inl ⟨hs, rfl⟩⟩)⟩
  · obtain ⟨h1, h2⟩ := hgap hi
    obtain ⟨ph, n, i, sb, g, hadv, -⟩ := advance_frame A C { pulseLoHold s with sub := .hiSet }
    refine ⟨_, (seqStep_pulse A C s hi).trans (pulseStep_loHold A C s hs), .inr (.inr ⟨h1, h2, .inr ⟨hs, ?_⟩⟩)⟩
    rw [hadv]
    rfl
  · refine ⟨_, seqStep_gaps A C s hp, .inl ⟨hp, ?_⟩⟩
    by_cases hA : A = []
    · by_cases hC : C = []
      · rw [hA, hC]
        exact .inl rfl
      · rw [hA, enterAddr_nil, enterCmd_cons C hC]
        exact .inr rfl
    · rw [enterAddr_cons A C hA]
      exact .inr rfl
  · obtain ⟨ph, r, n, sb, hend⟩ := endRepeat_frame (gapHold s)
    refine ⟨_, seqStep_gapr A C s hp, .inr (.inl ⟨hp, ?_⟩)⟩
    rw [hend]
    rfl

/-- On a busy state the machine's step is the sequencer's on its strings. -/
theorem eq_seqStep_of_busy {f : State → Host.Outcome State Fault Refusal} (hf : f = step ∨ ∃ A C, f = seqStep A C) {s : State}
    (hb : s.phase ≠ .idle) : ∃ A C, f s = seqStep A C s := by
  obtain rfl | ⟨A, C, rfl⟩ := hf
  · exact ⟨_, _, step_busy s hb⟩
  · exact ⟨A, C, rfl⟩

/-- A busy step outside a hold drives the pin. -/
theorem nextEvent_no_hold {s : State} (hb : s.phase ≠ .idle) (hn : holdCounter s = none) :
    ∃ v, s.nextEvent = .pinLevel s.pin v := by
  obtain ⟨-, he⟩ | ⟨-, he⟩ | ⟨d, hd, -⟩ := nextEvent_cases s hb
  · exact ⟨_, he⟩
  · exact ⟨_, he⟩
  · rw [hn] at hd
    cases hd

/-! ### A pulse in ticks -/

theorem inPulse_of_curTiming {A C : List Char8} {s : State} {tm : PulseTiming} (ht : curTiming A C s = some tm) :
    s.inPulse := by
  obtain hp | hi | hp | hp := phase_cases s
  · simp [curTiming, hp] at ht
  · exact hi
  · simp [curTiming, hp] at ht
  · simp [curTiming, hp] at ht

theorem holdCounter_none_of_hiSet {s : State} (hi : s.inPulse) (hs : s.sub = .hiSet) : holdCounter s = none := by
  obtain hp | hp | hp := hi <;> simp [holdCounter, hp, hs]

theorem holdCounter_none_of_loSet {s : State} (hi : s.inPulse) (hs : s.sub = .loSet) : holdCounter s = none := by
  obtain hp | hp | hp := hi <;> simp [holdCounter, hp, hs]

/-- In the HIGH hold it is HCNT that the ticks count down, in the LOW hold LCNT. -/
theorem withHoldCounter_hiHold {s : State} (hi : s.inPulse) (hs : s.sub = .hiHold) (x : Dur) :
    withHoldCounter x s = { s with hcnt := x } := by
  obtain hp | hp | hp := hi <;> simp [withHoldCounter, hp, hs]

theorem withHoldCounter_loHold {s : State} (hi : s.inPulse) (hs : s.sub = .loHold) (x : Dur) :
    withHoldCounter x s = { s with lcnt := x } := by
  obtain hp | hp | hp := hi <;> simp [withHoldCounter, hp, hs]

/-- The counter inside a hold reads as what is left of it. -/
theorem ofNat_sub_toNat (d : Dur) (n : Nat) : (BitVec.ofNat 24 (d.toNat - n)).toNat = d.toNat - n := by
  rw [BitVec.toNat_ofNat, Nat.mod_eq_of_lt (by omega)]

/-- The state in the HIGH hold of a pulse that began in `s`. -/
def inHighHold (tm : PulseTiming) (s : State) : State :=
  { s with
    hcnt := pulseDur s.plen tm.high, lcnt := pulseDur s.plen tm.low, level := some .high, sub := .hiHold
    trace := s.trace ++ [.pinLevel s.pin .high] }

/-- The state after the HIGH hold. -/
def afterHighHold (tm : PulseTiming) (s : State) : State :=
  { s with
    hcnt := 0#24, lcnt := pulseDur s.plen tm.low, level := some .high, sub := .loSet
    trace := s.trace ++ [.pinLevel s.pin .high, .delay (pulseDur s.plen tm.high)] }

/-- The state in the LOW hold. -/
def inLowHold (tm : PulseTiming) (s : State) : State :=
  { s with
    hcnt := 0#24, lcnt := pulseDur s.plen tm.low, level := some .low, sub := .loHold
    trace := s.trace ++ [.pinLevel s.pin .high, .delay (pulseDur s.plen tm.high), .pinLevel s.pin .low] }

section

variable (A C : List Char8) (tm : PulseTiming) {s : State} (hi : s.inPulse)

theorem seqStep_to_highHold (hs : s.sub = .hiSet) (ht : curTiming A C s = some tm) :
    seqStep A C s = .next (inHighHold tm s) :=
  (seqStep_pulse A C s (inPulse_of_curTiming ht)).trans (pulseStep_hiSet A C s tm hs ht)

include hi

theorem seqStep_inHighHold : seqStep A C (inHighHold tm s) = .next (afterHighHold tm s) := by
  rw [seqStep_pulse A C (inHighHold tm s) hi, pulseStep_hiHold A C (inHighHold tm s) rfl]
  simp [inHighHold, afterHighHold, pulseHiHold, emit]

theorem seqStep_afterHighHold : seqStep A C (afterHighHold tm s) = .next (inLowHold tm s) := by
  rw [seqStep_pulse A C (afterHighHold tm s) hi, pulseStep_loSet A C (afterHighHold tm s) rfl]
  simp [afterHighHold, inLowHold, pulseLoSet, drive, emit]

theorem seqStep_inLowHold (hs : s.sub = .hiSet) :
    seqStep A C (inLowHold tm s) = .next (advance A C (txpulse tm s)) := by
  rw [seqStep_pulse A C (inLowHold tm s) hi, pulseStep_loHold A C (inLowHold tm s) rfl, txpulse_eq]
  simp [inLowHold, pulseLoHold, emit, pulseEvents, State.protocol, hs]

theorem holdCounter_inHighHold : holdCounter (inHighHold tm s) = some (pulseDur s.plen tm.high) :=
  holdCounter_hiHold (inHighHold tm s) hi rfl

theorem holdCounter_inLowHold : holdCounter (inLowHold tm s) = some (pulseDur s.plen tm.low) :=
  holdCounter_loHold (inLowHold tm s) hi rfl

/-- The ticks from the start of the HIGH hold to the start of the LOW hold: those of the hold, and the drive LOW. -/
theorem tickRun_to_lowHold (now : Nat) :
    tickRun (seqStep A C) (holdSteps (pulseDur s.plen tm.high) + 1) ⟨inHighHold tm s, 0#24, now⟩ =
      .next ⟨inLowHold tm s, 0#24, now + (pulseDur s.plen tm.high).toNat⟩ :=
  (tickRun_add _ _ 1 _ _ (tickRun_hold _ now (holdCounter_inHighHold tm hi) (seqStep_inHighHold A C tm hi))).trans
    (tickRun_no_hold _ _ (holdCounter_none_of_loSet (s := afterHighHold tm s) hi rfl) (seqStep_afterHighHold A C tm hi))

end

/-! ### The time of a step -/

/-- The host's step emits no Delay: it takes no time. -/
theorem hostStep_emits_no_delay {s t : State} (h : hostStep s = .next t) :
    ∃ evs, t.trace = s.trace ++ evs ∧ duration evs = 0 := by
  have hnone {u : State} (he : u.trace = s.trace) : ∃ evs, u.trace = s.trace ++ evs ∧ duration evs = 0 :=
    ⟨[], by rw [he, List.append_nil], rfl⟩
  obtain ⟨-, rfl⟩ | ⟨w, rest, r, -, -, rfl⟩ | ⟨w, rest, i, -, hd, hx⟩ := hostStep_cases h
  · exact hnone rfl
  · exact hnone rfl
  · by_cases he : t.trace = s.trace
    · exact hnone he
    · obtain ⟨hone, hzero⟩ := symbolsComeOnlyFromCharacters.1 w i hd
      obtain ⟨-, -, -, -, -, -, -, htrace, -⟩ := registersAreWrittenByTheirWriters i _ t hx
      obtain ⟨p, rfl⟩ | rfl | ⟨ch, rfl⟩ := htrace (.inr he)
      · cases hx
        exact ⟨[.pinMode p], rfl, rfl⟩
      · exact absurd rfl hone
      · exact absurd rfl (hzero ch)

/-- Each step of the machine is a run in ticks, as long as the Delays it emits. -/
theorem tickRun_of_step {s t : State} (now : Nat) (h : step s = .next t) :
    ∃ m evs, t.trace = s.trace ++ evs ∧ tickRun step m ⟨s, 0#24, now⟩ = .next ⟨t, 0#24, now + duration evs⟩ := by
  by_cases hp : s.phase = .idle
  · obtain ⟨evs, htr, hdur⟩ := hostStep_emits_no_delay ((step_idle s hp).symm.trans h)
    refine ⟨1, evs, htr, ?_⟩
    rw [hdur]
    exact tickRun_no_hold step now (holdCounter_idle hp) h
  · have htr : t.trace = s.trace ++ [s.nextEvent] := by
      obtain ⟨_, _, _, _, _, _, _, _, rfl⟩ := step_busy_frame hp h
      rfl
    cases hd : holdCounter s with
    | none =>
      obtain ⟨v, hev⟩ := nextEvent_no_hold hp hd
      refine ⟨1, [s.nextEvent], htr, ?_⟩
      rw [hev]
      exact tickRun_no_hold step now hd h
    | some d =>
      refine ⟨holdSteps d, [s.nextEvent], htr, ?_⟩
      rw [nextEvent_hold s d hd]
      exact tickRun_hold step now hd h

/-! ### The obligations -/

/-- Settles O51: the ticks of a hold, its step, and the steps in no hold. -/
theorem holdCountsDownByTicks : Obligations.HoldCountsDownByTicks := by
  intro f s now hf
  refine ⟨fun d hd => ⟨fun n hn => tickRun_inside f s now hd hn, ?_⟩, fun d x hd => ?_, fun t hb hn h => ?_⟩
  · have hb := busy_of_holdCounter hd
    obtain ⟨A, C, hfs⟩ := eq_seqStep_of_busy hf hb
    obtain ⟨t, ht, hcount⟩ := seqStep_hold A C hd
    refine ⟨t, hfs.trans ht, ?_, ?_, tickRun_hold f now hd (hfs.trans ht), hcount⟩
    · obtain ⟨_, _, _, _, _, _, _, _, rfl⟩ := seqStep_frame A C s t hb ht
      rw [nextEvent_hold s d hd]
    · obtain ⟨_, _, _, _, _, _, _, _, rfl⟩ := seqStep_frame A C s t hb ht
      rw [nextEvent_hold s d hd]
      rfl
  · obtain ⟨hi, hs, -, hx⟩ | ⟨hi, hs, -, hx⟩ | ⟨hp, -, hx⟩ := holdCounter_cases s d hd
    · rw [hx, if_neg (by obtain hp | hp | hp := hi <;> simp [hp]), if_pos hs]
    · rw [hx, if_neg (by obtain hp | hp | hp := hi <;> simp [hp]), if_neg (by simp [hs])]
    · rw [hx, if_pos hp]
  · obtain ⟨A, C, hfs⟩ := eq_seqStep_of_busy hf hb
    obtain ⟨v, hev⟩ := nextEvent_no_hold hb hn
    refine ⟨tickRun_no_hold f now hn h, v, ?_⟩
    obtain ⟨_, _, _, _, _, _, _, _, rfl⟩ := seqStep_frame A C s t hb (hfs.symm.trans h)
    rw [hev]

/-- Settles O54: the drive HIGH, the HIGH hold, the drive LOW and the LOW hold, one after the other. -/
theorem pulsePartsLastTheirTicks : Obligations.PulsePartsLastTheirTicks := by
  intro A C s tm now h l ht hs hh hl
  have hi := inPulse_of_curTiming ht
  obtain rfl : h = pulseDur s.plen tm.high := BitVec.eq_of_toNat_eq (by rw [hh, pulseDur_toNat])
  obtain rfl : l = pulseDur s.plen tm.low := BitVec.eq_of_toNat_eq (by rw [hl, pulseDur_toNat])
  have hhigh := tickRun_no_hold _ now (holdCounter_none_of_hiSet hi hs) (seqStep_to_highHold A C tm hs ht)
  have hlow := (tickRun_add _ 1 (holdSteps (pulseDur s.plen tm.high) + 1) _ _ hhigh).trans (tickRun_to_lowHold A C tm hi now)
  rw [← Nat.add_assoc] at hlow
  refine ⟨fun n hn => ?_, fun n hn => ?_, ?_⟩
  · have hrun := (tickRun_add _ 1 n _ _ hhigh).trans (tickRun_inside _ _ now (holdCounter_inHighHold tm hi) hn)
    rw [withHoldCounter_hiHold (s := inHighHold tm s) hi rfl] at hrun
    exact ⟨_, hrun, rfl, rfl, ofNat_sub_toNat _ n, rfl⟩
  · have hrun := (tickRun_add _ _ n _ _ hlow).trans (tickRun_inside _ _ _ (holdCounter_inLowHold tm hi) hn)
    rw [withHoldCounter_loHold (s := inLowHold tm s) hi rfl] at hrun
    exact ⟨_, hrun, rfl, rfl, rfl, ofNat_sub_toNat _ n, rfl⟩
  · exact (tickRun_add _ _ _ _ _ hlow).trans
      (tickRun_hold _ _ (holdCounter_inLowHold tm hi) (seqStep_inLowHold A C tm hi hs))

/-- Settles O55: step by step, each a run in ticks. -/
theorem ticksRefineTheSteps : Obligations.TicksRefineTheSteps := by
  intro n
  induction n with
  | zero =>
    intro s t now h
    cases h
    exact ⟨0, now, rfl, fun _ => ⟨[], (List.append_nil _).symm, rfl⟩⟩
  | succ n ih =>
    intro s t now h
    cases hq : step s with
    | fault r => simp [stepRun, hq] at h
    | refused r => simp [stepRun, hq] at h
    | next u =>
      rw [stepRun_succ n s u hq] at h
      obtain ⟨m, evs, htr, hrun⟩ := tickRun_of_step now hq
      obtain ⟨m', later, hrun', hevs⟩ := ih u t (now + duration evs) h
      refine ⟨m + m', later, (tickRun_add step m m' _ _ hrun).trans hrun', fun hw => ?_⟩
      obtain ⟨evs', htr', hlater⟩ := hevs hw
      exact ⟨evs ++ evs', by rw [htr', htr, List.append_assoc], by rw [hlater, duration_append, Nat.add_assoc]⟩

end Sys2Proof.Machine
